-- ==== Sys2Proof/Word.lean ====
section
/-! DEFINITION. The word types: bytes, the 16-bit raw values and the 32-bit command and register words (R8, R52, R28). -/

namespace Sys2Proof

/-- An 8-bit unsigned value (R8). -/
abbrev Byte := BitVec 8

/-- A 16-bit unsigned value: a distance, or a raw Q8.8 value (R12, R21). -/
abbrev Half := BitVec 16

/-- A 32-bit command word or register value (R28, R52). -/
abbrev Word := BitVec 32

end Sys2Proof
end

