-- ==== Sys2Proof/Config.lean ====
section
/-! DEFINITION. The implementation parameters of R7: the constants, and the record of those that may differ between blocks. -/

namespace Sys2Proof

/-- `CAP`, the capacity of the frame buffer in bytes (R7). -/
abbrev cap : Nat := 25

/-- `REQ_LEN`, the length of the request frame in bytes (R7). -/
abbrev reqLen : Nat := 8

/-- `FUNC_CODE`, the function code (R7, D7). -/
abbrev funcCode : Byte := 0x04

/-- `CRC_INIT_LO` (R7). -/
abbrev crcInitLo : Byte := 0xFF

/-- `CRC_INIT_HI` (R7). -/
abbrev crcInitHi : Byte := 0xFF

/-- The parameters that are arguments of a model (R7, R11): fixed for the life of a run (R26). -/
structure Config where
  /-- `DEV_ADDR`, OPEN: any byte (R7, D6). -/
  devAddr : Byte
  /-- `MAX_DET`, in 0..3 (R7, D8). -/
  maxDet : Fin 4
  deriving DecidableEq, Repr

/-- DESIGN CHOICE, safe (log entry 2): `DEV_ADDR` of the block that `State.reset` describes.
R7 leaves it OPEN, so it has no value that a proof could use. -/
opaque Config.builtDevAddr : Byte

/-- DESIGN CHOICE (log entries 2 and 3): the configuration `State.reset` carries, an open device address and R7's `MAX_DET = 3`. -/
def Config.built : Config := { devAddr := Config.builtDevAddr, maxDet := 3 }

end Sys2Proof
end

