-- ==== Sys2Proof/Syntax.lean ====
section
/-! DEFINITION. The commands (one constructor per row of spec/opcode_table.json), the fields of the command word, the reasons
a word is rejected, and the assembler's lines with the pseudo-instructions (R52-R61). -/

namespace Sys2Proof

/-- The commands of R53, with their operands as R55 assembles them. -/
inductive Instr where
  /-- `RXBYTE b` (R74). -/
  | rxbyte (b : Byte)
  /-- `SENDREQ` (R98). -/
  | sendreq
  /-- `CRC_INIT` (R70). -/
  | crcInit
  /-- `CRC_BYTE b` (R71). -/
  | crcByte (b : Byte)
  /-- `CRC_CMP lo, hi` (R72). -/
  | crcCmp (lo hi : Byte)
  deriving DecidableEq, Repr

/-- The assigned operation codes of R53, without their operands. -/
inductive Opcode where
  | rxbyte
  | sendreq
  | crcInit
  | crcByte
  | crcCmp
  deriving DecidableEq, Repr

/-- The operation of a command. -/
def Instr.opcode : Instr → Opcode
  | .rxbyte _ => .rxbyte
  | .sendreq => .sendreq
  | .crcInit => .crcInit
  | .crcByte _ => .crcByte
  | .crcCmp _ _ => .crcCmp

/-- The one format `C` of R52, field by field: `OP` [31:24], `RSV` [23:16], `B1` [15:8], `B0` [7:0]. -/
structure CmdWord where
  op : Byte
  rsv : Byte
  b1 : Byte
  b0 : Byte
  deriving DecidableEq, Repr

/-- Why a word is illegal (R57). -/
inductive DecodeError where
  /-- `OP` is not in the opcode map. -/
  | unknownOpcode
  /-- `OP` is assigned, and `RSV` or a "must be 0x00" operand byte is not zero. -/
  | reservedBits
  deriving DecidableEq, Repr

/-- One line of assembly (R60) or one pseudo-instruction (R61). A literal is any number here; R60's range is a check of WellFormed. -/
inductive AsmLine where
  | rxbyte (b : Nat)
  | sendreq
  | crcInit
  | crcByte (b : Nat)
  | crcCmp (lo hi : Nat)
  /-- `RXFRAME b0, ..., b(n-1)` with `n >= 1`. -/
  | rxframe (bs : List Nat)
  /-- `CRC_RUN b0, ..., b(n-1)` with `n >= 0`. -/
  | crcRun (bs : List Nat)
  /-- `CRC_VERIFY b0, ..., b(n-1), lo, hi`. -/
  | crcVerify (bs : List Nat) (lo hi : Nat)
  deriving DecidableEq, Repr

end Sys2Proof
end

