-- ==== Sys2Proof/WellFormed.lean ====
section
/-! DEFINITION. What the block and the assembler accept: the legal command words (R53, R54, R57) and the assembler's checks
(R60, R61). Every value of `Instr` is well formed: its operands are bytes, and all 256 values of each are legal (R71, R74). -/

namespace Sys2Proof

/-- The `OP` column of R53's opcode map. -/
def Opcode.code : Opcode → Byte
  | .rxbyte => 0x01
  | .sendreq => 0x02
  | .crcInit => 0x10
  | .crcByte => 0x11
  | .crcCmp => 0x12

/-- The assigned operation codes, in the table's order. -/
def Opcode.all : List Opcode := [.rxbyte, .sendreq, .crcInit, .crcByte, .crcCmp]

/-- The operation an `OP` field names, if it is assigned (R53). -/
def Opcode.ofCode? (c : Byte) : Option Opcode := Opcode.all.find? (fun o => o.code == c)

/-- R53: the row's `B1` column says "must be 0x00". -/
def Opcode.b1MustBeZero : Opcode → Bool
  | .crcCmp => false
  | _ => true

/-- R53: the row's `B0` column says "must be 0x00". -/
def Opcode.b0MustBeZero : Opcode → Bool
  | .sendreq => true
  | .crcInit => true
  | _ => false

/-- A legal command word (R54, R57): an assigned `OP`, `RSV` zero, and zero in every operand byte that must be 0x00. -/
def CmdWord.wellFormed (c : CmdWord) : Bool :=
  match Opcode.ofCode? c.op with
  | none => false
  | some o => c.rsv == 0 && (!o.b1MustBeZero || c.b1 == 0) && (!o.b0MustBeZero || c.b0 == 0)

/-- R60: an assembler refuses a literal outside 0..255. -/
def literalOk (n : Nat) : Bool := decide (n ≤ 255)

/-- The assembler's checks: every literal in range (R60), and at least one byte in an `RXFRAME` (R61). -/
def AsmLine.wellFormed : AsmLine → Bool
  | .rxbyte b => literalOk b
  | .sendreq => true
  | .crcInit => true
  | .crcByte b => literalOk b
  | .crcCmp lo hi => literalOk lo && literalOk hi
  | .rxframe bs => !bs.isEmpty && bs.all literalOk
  | .crcRun bs => bs.all literalOk
  | .crcVerify bs lo hi => bs.all literalOk && literalOk lo && literalOk hi

end Sys2Proof
end

