-- ==== Sys2Proof/Decode.lean ====
section
/-! DEFINITION. The command-word decoder, total on every 32-bit word and rejecting by name (R56, R57), and the encoder (R53, R60). -/

namespace Sys2Proof

/-- Format `C` read from a word (R52). -/
def cmdWordOf (w : Word) : CmdWord :=
  { op := w.extractLsb' 24 8, rsv := w.extractLsb' 16 8, b1 := w.extractLsb' 8 8, b0 := w.extractLsb' 0 8 }

/-- Format `C` laid out as a word (R52). -/
def wordOf (c : CmdWord) : Word := c.op ++ c.rsv ++ c.b1 ++ c.b0

/-- One row of spec/opcode_table.json: a word belongs to it when `(w AND mask) = pattern` (R56). -/
structure OpRow where
  op : Opcode
  mask : Word
  pattern : Word
  deriving DecidableEq, Repr

/-- spec/opcode_table.json, row by row and in its order. -/
def opcodeTable : List OpRow :=
  [ { op := .rxbyte, mask := 0xFFFFFF00, pattern := 0x01000000 },
    { op := .sendreq, mask := 0xFFFFFFFF, pattern := 0x02000000 },
    { op := .crcInit, mask := 0xFFFFFFFF, pattern := 0x10000000 },
    { op := .crcByte, mask := 0xFFFFFF00, pattern := 0x11000000 },
    { op := .crcCmp, mask := 0xFFFF0000, pattern := 0x12000000 } ]

/-- The word is one of the row's (R56). -/
def rowMatches (r : OpRow) (w : Word) : Bool := w &&& r.mask == r.pattern

/-- The command of a row, its operands taken from `B0` and `B1` as R55 says. -/
def instrOf (o : Opcode) (c : CmdWord) : Instr :=
  match o with
  | .rxbyte => .rxbyte c.b0
  | .sendreq => .sendreq
  | .crcInit => .crcInit
  | .crcByte => .crcByte c.b0
  | .crcCmp => .crcCmp c.b0 c.b1

/-- The class of a word that matches no row (R57): an assigned `OP` leaves only a reserved field to blame. -/
def illegalReason (c : CmdWord) : DecodeError :=
  match Opcode.ofCode? c.op with
  | none => .unknownOpcode
  | some _ => .reservedBits

/-- R56: the first row that matches gives the command; where none does, the refusal of R57. -/
def decode (w : Word) : Except DecodeError Instr :=
  match opcodeTable.find? (fun r => rowMatches r w) with
  | some r => .ok (instrOf r.op (cmdWordOf w))
  | none => .error (illegalReason (cmdWordOf w))

/-- The fields of a command (R53): zero in `RSV` and in every operand byte that must be 0x00. -/
def cmdWordOfInstr (i : Instr) : CmdWord :=
  match i with
  | .rxbyte b => { op := Opcode.code .rxbyte, rsv := 0, b1 := 0, b0 := b }
  | .sendreq => { op := Opcode.code .sendreq, rsv := 0, b1 := 0, b0 := 0 }
  | .crcInit => { op := Opcode.code .crcInit, rsv := 0, b1 := 0, b0 := 0 }
  | .crcByte b => { op := Opcode.code .crcByte, rsv := 0, b1 := 0, b0 := b }
  | .crcCmp lo hi => { op := Opcode.code .crcCmp, rsv := 0, b1 := hi, b0 := lo }

/-- The word of a command (R60's table). -/
def encode (i : Instr) : Word := wordOf (cmdWordOfInstr i)

/-- The word the host's numbering names: bit 0 is the least significant bit of the one 32-bit word, and the bits at `nbits` and above are 0. -/
def tableWord (nbits w : Nat) : Word := BitVec.ofNat 32 (w % 2 ^ nbits)

/-- The host's view of the decoder, on one row's bits. Every command is one 32-bit word (R59), so a longer one is none. -/
def decodeTableWord (nbits w : Nat) : Option Instr :=
  if 32 < nbits then none
  else
    match decode (tableWord nbits w) with
    | .ok i => some i
    | .error _ => none

end Sys2Proof
end

