-- ==== Sys2Proof/Machine/State.lean ====
section
/-! DEFINITION. The state of the block as 10_state.md lists it, what COLLAB gives it and gets from it, why a step can stop, and
the state after reset (R123). -/

namespace Sys2Proof.Machine

open Sys2Proof

/-- The four error codes of a cycle (R22 codes 1..4, R104). -/
inductive Err where
  /-- An RXBYTE found `COUNT >= 25` (R77). -/
  | overflow
  /-- Wrong length, address or function code (R86, R87). -/
  | badResponse
  /-- The checksum did not verify (R88). -/
  | badChecksum
  /-- The detection count is above `MAX_DET` (R89). -/
  | tooManyDetections
  deriving DecidableEq, Repr

/-- `LAST_ERR` (R22): `NONE`, or the error of the last cycle. Codes 5..7 are never written, so none stands for them (log entry 14). -/
inductive LastErr where
  | none
  | failed (e : Err)
  deriving DecidableEq, Repr

/-- One detection (R21). -/
structure Detection where
  /-- `DIST`, centimetres. -/
  dist : Half
  /-- `AMP`, raw unsigned Q8.8 (R12). -/
  amp : Half
  deriving DecidableEq, Repr

/-- The register group RD (R18-R21), and the record `snap` of R32, which has the same four fields. -/
structure Reading where
  /-- The timestamp, raw (R18). -/
  ts : Word
  /-- The temperature, raw unsigned Q8.8 (R19). -/
  temp : Half
  /-- The detection count (R20). -/
  ndet : Byte
  /-- The `MAX_DET` detections, number 0 first (R21; log entry 13). -/
  det : List Detection
  deriving DecidableEq, Repr

/-- The result of a cycle: what DECODE returns (R84) and `cycle_end` takes (R79). -/
inductive CycleResult where
  | ok (snap : Reading)
  | err (e : Err)
  deriving DecidableEq, Repr

/-- The output events of R32; a step emits nothing else. -/
inductive Event where
  /-- `TX([r0..r7])`, `r0` first on the wire. -/
  | tx (r : Vector Byte 8)
  /-- `CYCLE(OK, snap)` or `CYCLE(ERR, code)`. -/
  | cycle (r : CycleResult)
  /-- `REQ_NEXT`. -/
  | reqNext
  deriving DecidableEq, Repr

/-- The two halves of a checksum accumulator (R23, R66): `lo` is the byte sent first. -/
structure CrcAcc where
  lo : Byte
  hi : Byte
  deriving DecidableEq, Repr

/-- What COLLAB gives the block, one at a time (R43): a command word, or the reset input between two commands (R122). -/
inductive Input where
  | cmd (w : Word)
  | rst
  deriving DecidableEq, Repr

/-- The frame buffer (R15): the bytes written, by index; an index not listed is UNWRITTEN (log entry 8). -/
abbrev Memory := List Host.Cell

/-- What an unlisted index reads as: no value. R123: "A model must treat `FRAME` bytes as holding no value after reset." -/
def Memory.unlisted : Option Byte := Option.none

/-- Why the machine stops although the command was legal. Neither is an error of the block, which never traps (R103). -/
inductive Fault where
  /-- DECODE read a FRAME byte that nothing has written (R15, R123, I5). Raised by `readFrame`; only constructed states reach it. Safe. -/
  | unwrittenFrameByte (i : Nat)
  /-- An access to FRAME at an index that does not exist (R34: only 0..24 do). Raised by `readFrame` and `writeFrame`; no step forms such an index. Safe. -/
  | noFrameIndex (i : Nat)
  deriving DecidableEq, Repr

/-- Why an input has no meaning. -/
inductive Refusal where
  /-- A command this model has given no meaning yet; safe. No arm of `exec` raises it. -/
  | notModelled (mnemonic : String)
  /-- `UnknownOpcode` (R57): raised by `step` on a word whose `OP` is not assigned; safe. -/
  | unknownOpcode
  /-- `ReservedBits` (R54, R57): raised by `step` on an assigned `OP` with a reserved field not zero; safe. -/
  | reservedBits
  /-- `UnmappedRegister` (R29): raised by the register-read port `readReg` on a number of 0x09 or above; safe. -/
  | unmappedRegister
  deriving DecidableEq, Repr

/-- The state of the block, with its configuration (log entry 1), what COLLAB has issued (log entry 4) and what COLLAB has been
told (log entry 6). -/
structure State where
  /-- The parameters R11 calls `cfg`; no step writes them (R7, R26). -/
  cfg : Config
  /-- `FRAME[0..24]` (R15). -/
  frame : Memory
  /-- `COUNT`, 5 bits (R16). -/
  count : BitVec 5
  /-- `RD` (R18-R21). -/
  rd : Reading
  /-- `LAST_ERR` (R22). -/
  lastErr : LastErr
  /-- `CRC_ACC`, that is `CRC_LO` and `CRC_HI` (R23). -/
  crcAcc : CrcAcc
  /-- `CRC_OK` (R24). -/
  crcOk : Bool
  /-- The commands and resets COLLAB has issued, oldest first; the model's own field (log entry 4). -/
  inbox : List Input
  /-- Every event emitted so far, oldest first; the model's own field (log entry 6). -/
  events : List Event
  deriving DecidableEq, Repr

/-- R123's reset values, under a configuration; nothing issued and nothing emitted yet. -/
def State.resetWith (cfg : Config) : State :=
  { cfg := cfg
    frame := []
    count := 0
    rd := { ts := 0, temp := 0, ndet := 0, det := List.replicate cfg.maxDet.val { dist := 0, amp := 0 } }
    lastErr := .none
    crcAcc := { lo := 0xFF, hi := 0xFF }
    crcOk := false
    inbox := []
    events := [] }

/-- The machine right after reset (R122, R123), with `DEV_ADDR` open (log entry 2). -/
def State.reset : State := State.resetWith Config.built

end Sys2Proof.Machine
end

