-- ==== Sys2Proof/Machine/Ops.lean ====
section
/-! DEFINITION. The named operations over the state: register writes, the frame buffer, events, taking COLLAB's next input, the
end of a frame cycle (R79) and reset (R122). The block has no exception entry and no return from one (R103, R113, R114):
`cycleEnd` is the one recovery action every error goes through. -/

namespace Sys2Proof.Machine

open Sys2Proof

/-- `COUNT <- c`. -/
def State.setCount (s : State) (c : BitVec 5) : State := { s with count := c }

/-- `LAST_ERR <- e`. -/
def State.setLastErr (s : State) (e : LastErr) : State := { s with lastErr := e }

/-- Every field of `RD` replaced at once (R45, R94). -/
def State.setReading (s : State) (r : Reading) : State := { s with rd := r }

/-- `CRC_LO <- a.lo; CRC_HI <- a.hi`. -/
def State.setCrcAcc (s : State) (a : CrcAcc) : State := { s with crcAcc := a }

/-- `CRC_OK <- b`. -/
def State.setCrcOk (s : State) (b : Bool) : State := { s with crcOk := b }

/-- The frame buffer replaced. -/
def State.setFrame (s : State) (m : Memory) : State := { s with frame := m }

/-- What is left to take of COLLAB's inputs. -/
def State.setInbox (s : State) (l : List Input) : State := { s with inbox := l }

/-- `emit E`: the event joins the end of the list (R10, R109). -/
def State.emit (s : State) (e : Event) : State := { s with events := s.events ++ [e] }

/-- A detection with both fields 0 (R21, R79). -/
def Detection.zero : Detection := { dist := 0, amp := 0 }

/-- "clear the detection results" (R79, D11): `NDET` and the `MAX_DET` detections, not `TS` and not `TEMP`. -/
def State.clearDetections (s : State) : State :=
  s.setReading { s.rd with ndet := 0, det := List.replicate s.cfg.maxDet.val Detection.zero }

/-- The byte listed at an index, if it has been written. -/
def Memory.read? : Memory → Nat → Option Byte
  | [], _ => Memory.unlisted
  | (i, b) :: m, a => if i = a then some b else Memory.read? m a

/-- A byte stored at an index, the list kept in rising order. -/
def Memory.write : Memory → Nat → Byte → Memory
  | [], a, v => [(a, v)]
  | (i, b) :: m, a, v =>
    if a < i then (a, v) :: (i, b) :: m
    else if a = i then (a, v) :: m
    else (i, b) :: Memory.write m a v

/-- Every listed index is above `lo` and below `CAP`, and they rise strictly. -/
def Memory.risesFrom : Nat → Memory → Bool
  | _, [] => true
  | lo, (i, _) :: m => decide (lo ≤ i) && decide (i < cap) && Memory.risesFrom (i + 1) m

/-- The canonical form: strictly rising indices, all of them in 0..24 (R34). -/
def Memory.wf (m : Memory) : Bool := Memory.risesFrom 0 m

/-- `FRAME[i]` (R10). A byte nothing has written has no value to give (R15, R123). -/
def readFrame (s : State) (i : Nat) : Except Fault Byte :=
  if i < cap then
    match s.frame.read? i with
    | some b => .ok b
    | none => .error (.unwrittenFrameByte i)
  else .error (.noFrameIndex i)

/-- `FRAME[i], FRAME[i+1], ...`, `n` bytes. -/
def readFrameBytes (s : State) : Nat → Nat → Except Fault (List Byte)
  | _, 0 => .ok []
  | i, n + 1 => do
    let b ← readFrame s i
    let bs ← readFrameBytes s (i + 1) n
    pure (b :: bs)

/-- `FRAME[i] <- b` (R10, R34). -/
def writeFrame (s : State) (i : Nat) (b : Byte) : Except Fault State :=
  if i < cap then .ok (s.setFrame (s.frame.write i b)) else .error (.noFrameIndex i)

/-- `LAST_ERR <- code` and `emit CYCLE(...)`, the first part of `cycle_end` (R79). -/
def recordCycle (s : State) (r : CycleResult) : State :=
  match r with
  | .ok snap => (s.setLastErr .none).emit (.cycle (.ok snap))
  | .err e => (s.setLastErr (.failed e)).emit (.cycle (.err e))

/-- `cycle_end(result)`, the common recovery action that ends every frame cycle (R79, R80). -/
def cycleEnd (s : State) (r : CycleResult) : State :=
  (((recordCycle s r).clearDetections).setCount 0).emit .reqNext

/-- `RST`: every state element at its reset value, the configuration unchanged, no event (R122-R124). What COLLAB has still to
issue and what it has already been told are not the block's to change (log entry 7). -/
def rst (s : State) : State :=
  { State.resetWith s.cfg with inbox := s.inbox, events := s.events }

/-- The next state of an operation that can stop with a fault. -/
def outcomeOf (r : Except Fault State) : Host.Outcome State Fault Refusal :=
  match r with
  | .ok t => .next t
  | .error f => .fault f

/-- The name the machine gives an illegal word (R57). -/
def refusalOf (e : DecodeError) : Refusal :=
  match e with
  | .unknownOpcode => .unknownOpcode
  | .reservedBits => .reservedBits

/-- COLLAB's next input, the oldest first (R43), and the state once it is taken. -/
def takeInput (s : State) : Option (Input × State) :=
  match s.inbox with
  | [] => none
  | x :: rest => some (x, s.setInbox rest)

end Sys2Proof.Machine
end

