-- ==== Sys2Proof/Machine/Operands.lean ====
section
/-! DEFINITION. The positional fields of a response frame: the byte orders of R37 and the extractor of R90-R93. A command's own
operands are whole bytes of its word (R55) and are taken in Decode.lean. -/

namespace Sys2Proof.Machine

open Sys2Proof

/-- `(a : b)` of two bytes (R9): `a*256 + b`. -/
def catBytes (a b : Byte) : Half := a ++ b

/-- `be16(i)`: `(FRAME[i] : FRAME[i+1])`, big-endian (R37, R84). -/
def be16 (s : State) (i : Nat) : Except Fault Half := do
  let a ← readFrame s i
  let b ← readFrame s (i + 1)
  pure (catBytes a b)

/-- The timestamp's interleaving, from `FRAME[3]`, `FRAME[4]`, `FRAME[5]`, `FRAME[6]` (R90). -/
def interleave (b3 b4 b5 b6 : Byte) : Word :=
  (b5.setWidth 32 <<< 24) ||| (b6.setWidth 32 <<< 16) ||| (b3.setWidth 32 <<< 8) ||| b4.setWidth 32

/-- The timestamp of the frame (R90). -/
def readTimestamp (s : State) : Except Fault Word := do
  let b3 ← readFrame s 3
  let b4 ← readFrame s 4
  let b5 ← readFrame s 5
  let b6 ← readFrame s 6
  pure (interleave b3 b4 b5 b6)

/-- The temperature of the frame (R91). -/
def readTemperature (s : State) : Except Fault Half := be16 s 7

/-- Where record `k` starts (R93). -/
def recordAt (k : Nat) : Nat := 11 + 4 * k

/-- `det[k]` of a frame that reports `n` detections: the record when `k < n`, else (0, 0) (R84, R93). -/
def readDetection (s : State) (n k : Nat) : Except Fault Detection :=
  if k < n then do
    let dist ← be16 s (recordAt k)
    let amp ← be16 s (recordAt k + 2)
    pure { dist := dist, amp := amp }
  else .ok Detection.zero

/-- `det[k]`, `det[k+1]`, ..., `left` of them (R84's loop). -/
def readDetectionsFrom (s : State) (n : Nat) : Nat → Nat → Except Fault (List Detection)
  | _, 0 => .ok []
  | k, left + 1 => do
    let d ← readDetection s n k
    let ds ← readDetectionsFrom s n (k + 1) left
    pure (d :: ds)

/-- `det[0..MAX_DET-1]` of a frame that reports `n` detections (R93). -/
def readDetections (s : State) (n : Nat) : Except Fault (List Detection) :=
  readDetectionsFrom s n 0 s.cfg.maxDet.val

end Sys2Proof.Machine
end

