-- ==== Sys2Proof/Machine/ResponseDecoder.lean ====
section
/-! DEFINITION. The Response Decoder: the internal operation DECODE (R84-R95). -/

namespace Sys2Proof.Machine

open Sys2Proof

/-- Check 2 passes: byte 0 is `DEV_ADDR` and byte 1 is `FUNC_CODE` (R87). A wrong byte 0 decides alone (log entry 10). -/
def addressed (s : State) : Except Fault Bool := do
  let b0 ← readFrame s 0
  if b0 = s.cfg.devAddr then do
    let b1 ← readFrame s 1
    pure (b1 == funcCode)
  else pure false

/-- Check 3 passes: `verify(FRAME, n)` (R88), reading `FRAME[0..n+1]` (log entry 11). -/
def checksumOk (s : State) (n : Nat) : Except Fault Bool := do
  let msg ← readFrameBytes s 0 n
  let lo ← readFrame s n
  let hi ← readFrame s (n + 1)
  pure (verify msg lo hi)

/-- The extraction of a frame whose checks have passed, with the count `n` of check 4 (R90-R93). -/
def extract (s : State) (n : Byte) : Except Fault Reading := do
  let ts ← readTimestamp s
  let temp ← readTemperature s
  let det ← readDetections s n.toNat
  pure { ts := ts, temp := temp, ndet := n, det := det }

/-- Check 4 and the extraction (R89, R84). -/
def countAndExtract (s : State) : Except Fault CycleResult := do
  let n ← readFrame s 10
  if s.cfg.maxDet.val < n.toNat then pure (.err .tooManyDetections)
  else do
    let snap ← extract s n
    pure (.ok snap)

/-- The value `DECODE(FRAME, len)` returns: the first failing check decides (R84, R85). -/
def decodeFrame (s : State) (len : Nat) : Except Fault CycleResult :=
  if len ≠ cap then .ok (.err .badResponse)
  else do
    if ← addressed s then
      if ← checksumOk s (len - 2) then countAndExtract s
      else pure (.err .badChecksum)
    else pure (.err .badResponse)

/-- DECODE's write: all of `RD` on success, no part of it on an error (R94). -/
def writeDecoded (s : State) (r : CycleResult) : State :=
  match r with
  | .ok snap => s.setReading snap
  | .err _ => s

end Sys2Proof.Machine
end

