-- ==== Sys2Proof/Machine/FrameAssembler.lean ====
section
/-! DEFINITION. The Frame Assembler: RXBYTE (R74-R78, R82). -/

namespace Sys2Proof.Machine

open Sys2Proof

/-- The `Full` state: DECODE, then `cycle_end` with its result, in the same step (R78). -/
def completeFrame (s : State) : Except Fault State := do
  let r ← decodeFrame s s.count.toNat
  pure (cycleEnd (writeDecoded s r) r)

/-- The normal append `FRAME[COUNT] <- b; COUNT <- COUNT + 1` (R75). -/
def append (s : State) (b : Byte) : Except Fault State := do
  let t ← writeFrame s s.count.toNat b
  pure (t.setCount (s.count + 1))

/-- The append, and what follows when it fills the frame (R74, R76, R78). -/
def appendAndComplete (s : State) (b : Byte) : Except Fault State := do
  let t ← append s b
  if t.count.toNat = cap then completeFrame t else pure t

/-- `RXBYTE b` (R74): the overflow guard, whose byte is discarded (R77), else the append. -/
def execRxbyte (b : Byte) (s : State) : Host.Outcome State Fault Refusal :=
  if cap ≤ s.count.toNat then .next (cycleEnd s (.err .overflow))
  else outcomeOf (appendAndComplete s b)

end Sys2Proof.Machine
end

