-- ==== Sys2Proof/Machine/RequestBuilder.lean ====
section
/-! DEFINITION. The request builder: SENDREQ (R98-R101). -/

namespace Sys2Proof.Machine

open Sys2Proof

/-- The fixed 6-byte command, bytes 0..5 of the request (R62, R99). -/
def requestHead (cfg : Config) : List Byte := [cfg.devAddr, funcCode, 0x00, 0x14, 0x00, 0x0A]

/-- The 8-byte request frame, its checksum low byte first (R62, R99). -/
def requestFrame (cfg : Config) : Vector Byte 8 :=
  let crc := compute (requestHead cfg)
  #v[cfg.devAddr, funcCode, 0x00, 0x14, 0x00, 0x0A, crc.lo, crc.hi]

/-- `SENDREQ` (R98): one `TX` event (R100), no state read or written (R101). -/
def execSendreq (s : State) : Host.Outcome State Fault Refusal :=
  .next (s.emit (.tx (requestFrame s.cfg)))

end Sys2Proof.Machine
end

