-- ==== Sys2Proof/Machine/Flags.lean ====
section
/-! DEFINITION. The block's status values: the numeric codes of `LAST_ERR` (R22), the comparison that `CRC_OK` holds (R24, R72),
and the assembler state derived from `COUNT` (R17). There are no arithmetic flags (R25). -/

namespace Sys2Proof.Machine

open Sys2Proof

/-- The code of an error (R22, R104). -/
def errCode (e : Err) : BitVec 3 :=
  match e with
  | .overflow => 1
  | .badResponse => 2
  | .badChecksum => 3
  | .tooManyDetections => 4

/-- The three bits of `LAST_ERR` (R22). -/
def lastErrCode (l : LastErr) : BitVec 3 :=
  match l with
  | .none => 0
  | .failed e => errCode e

/-- CRC_CMP's result: both bytes must match (R72). -/
def crcMatches (a : CrcAcc) (lo hi : Byte) : Bool := a.lo == lo && a.hi == hi

/-- The states of R17's table. -/
inductive AsmState where
  | idle
  | accumulating
  | full
  | overflow
  deriving DecidableEq, Repr

/-- R17's table, row by row: the state `COUNT` gives, where `rxArrives` says that an RXBYTE has arrived and is not yet stored.
The table has no row for 26..31 with no byte arriving, values it says are never held at rest. -/
def asmState (count : BitVec 5) (rxArrives : Bool) : Option AsmState :=
  if count.toNat = 0 then some .idle
  else if count.toNat < cap then some .accumulating
  else if rxArrives then some .overflow
  else if count.toNat = cap then some .full
  else none

end Sys2Proof.Machine
end

