-- ==== Sys2Proof/Machine/TestPort.lean ====
section
/-! DEFINITION. The checksum engine's test port: CRC_INIT, CRC_BYTE and CRC_CMP (R70-R72). -/

namespace Sys2Proof.Machine

open Sys2Proof

/-- `CRC_INIT` (R70). -/
def execCrcInit (s : State) : Host.Outcome State Fault Refusal :=
  .next ((s.setCrcAcc crcSeed).setCrcOk false)

/-- `CRC_BYTE b` (R71). -/
def execCrcByte (b : Byte) (s : State) : Host.Outcome State Fault Refusal :=
  .next (s.setCrcAcc (crcStep s.crcAcc b))

/-- `CRC_CMP lo, hi` (R72). -/
def execCrcCmp (lo hi : Byte) (s : State) : Host.Outcome State Fault Refusal :=
  .next (s.setCrcOk (crcMatches s.crcAcc lo hi))

end Sys2Proof.Machine
end

