-- ==== Sys2Proof/Machine/Dispatch.lean ====
section
/-! DEFINITION. One arm per command of spec/opcode_table.json. -/

namespace Sys2Proof.Machine

open Sys2Proof

def exec (i : Instr) (s : State) : Host.Outcome State Fault Refusal :=
  match i with
  | .rxbyte b => Sys2Proof.Machine.execRxbyte b s
  | .sendreq => Sys2Proof.Machine.execSendreq s
  | .crcInit => Sys2Proof.Machine.execCrcInit s
  | .crcByte b => Sys2Proof.Machine.execCrcByte b s
  | .crcCmp lo hi => Sys2Proof.Machine.execCrcCmp lo hi s

end Sys2Proof.Machine
end

