-- ==== Sys2Proof/Machine/RunWord.lean ====
section
/-! DEFINITION. Carrying out one command word (R11, R56, R57). -/

namespace Sys2Proof.Machine

open Sys2Proof

/-- One command word: refused by name where it is illegal (R57), else executed. -/
def runWord (w : Word) (s : State) : Host.Outcome State Fault Refusal :=
  match decode w with
  | .ok i => exec i s
  | .error e => .refused (refusalOf e)

/-- One of COLLAB's inputs: a command (R11), or `RST`, a step of its own (R122). -/
def runInput (x : Input) (s : State) : Host.Outcome State Fault Refusal :=
  match x with
  | .rst => .next (rst s)
  | .cmd w => runWord w s

/-- One step of the block: the next input, taken and carried out whole (R6, R42). While COLLAB issues nothing the state is held
unchanged (R121; log entry 5). -/
def runNext (s : State) : Host.Outcome State Fault Refusal :=
  match takeInput s with
  | none => .next s
  | some (x, t) => runInput x t

/-- The word issued so that the very next step takes it (log entry 4). -/
def issueFirst (s : State) (w : Word) : State := s.setInbox (.cmd w :: s.inbox)

end Sys2Proof.Machine
end

