-- ==== Sys2Proof/Machine/Step.lean ====
section
/-! DEFINITION. One step of the block (R6, R11), and the host's way of issuing one opcode-table word. -/

namespace Sys2Proof.Machine

open Sys2Proof

/-- One step: COLLAB's next input, carried out whole (R6, R11, R42). -/
def step (s : State) : Host.Outcome State Fault Refusal := runNext s

/-- The host's word of one opcode-table row, issued so that the next step takes it (log entry 4). -/
def State.withFetchWord (s : State) (nbits w : Nat) : State := issueFirst s (tableWord nbits w)

end Sys2Proof.Machine
end

