-- ==== Sys2Proof/Machine/Assembler.lean ====
section
/-! DEFINITION. The assembler: R60's lines of text and R61's pseudo-instructions, down to command words. The block never sees
any of it; its only product is the list of words COLLAB issues. -/

namespace Sys2Proof.Machine

open Sys2Proof

/-- The byte of a literal that WellFormed has checked. -/
def byteOf (n : Nat) : Byte := BitVec.ofNat 8 n

/-- `CRC_RUN b0, ..., b(n-1)` (R61). -/
def expandCrcRun (bs : List Nat) : List Instr := .crcInit :: bs.map (fun b => .crcByte (byteOf b))

/-- The commands a line stands for, in order (R60, R61). -/
def expandLine (l : AsmLine) : List Instr :=
  match l with
  | .rxbyte b => [.rxbyte (byteOf b)]
  | .sendreq => [.sendreq]
  | .crcInit => [.crcInit]
  | .crcByte b => [.crcByte (byteOf b)]
  | .crcCmp lo hi => [.crcCmp (byteOf lo) (byteOf hi)]
  | .rxframe bs => bs.map (fun b => .rxbyte (byteOf b))
  | .crcRun bs => expandCrcRun bs
  | .crcVerify bs lo hi => expandCrcRun bs ++ [.crcCmp (byteOf lo) (byteOf hi)]

/-- The commands of a line, refused where the line fails a check of R60 or R61. -/
def assembleLine (l : AsmLine) : Option (List Instr) :=
  if l.wellFormed then some (expandLine l) else none

/-- A blank between tokens (log entry 17). -/
def isBlank (c : Char) : Bool := c == ' ' || c == '\t'

/-- The characters without the blanks at either end. -/
def trimBlanks (cs : List Char) : List Char :=
  ((cs.dropWhile isBlank).reverse.dropWhile isBlank).reverse

/-- The line up to the `;` that starts a comment (R60). -/
def stripComment (cs : List Char) : List Char := cs.takeWhile (fun c => c != ';')

/-- The pieces between commas. -/
def splitCommas : List Char → List (List Char)
  | [] => [[]]
  | c :: cs =>
    if c = ',' then [] :: splitCommas cs
    else
      match splitCommas cs with
      | [] => [[c]]
      | p :: ps => (c :: p) :: ps

/-- The value of a digit, if it is one in the given base. -/
def digitOf (base : Nat) (c : Char) : Option Nat :=
  let n := c.toNat
  let v :=
    if 48 ≤ n ∧ n ≤ 57 then some (n - 48)
    else if 65 ≤ n ∧ n ≤ 70 then some (n - 55)
    else if 97 ≤ n ∧ n ≤ 102 then some (n - 87)
    else none
  match v with
  | some d => if d < base then some d else none
  | none => none

/-- The digits read on from a value. -/
def digitsFrom (base : Nat) : Nat → List Char → Option Nat
  | acc, [] => some acc
  | acc, c :: cs =>
    match digitOf base c with
    | some d => digitsFrom base (acc * base + d) cs
    | none => none

/-- A literal, hexadecimal (`0x..`) or decimal (R60). Its range is WellFormed's to check. R60 leaves open how many digits a literal
may have: one or more of them, leading zeros included, is the model's choice (DESIGN CHOICE, log entry 17). -/
def parseLiteral (cs : List Char) : Option Nat :=
  match cs with
  | [] => none
  | '0' :: 'x' :: d :: ds => digitsFrom 16 0 (d :: ds)
  | d :: ds => digitsFrom 10 0 (d :: ds)

/-- The operands of a line, separated by commas (R60). -/
def parseOperands (cs : List Char) : Option (List Nat) :=
  let t := trimBlanks cs
  if t.isEmpty then some [] else (splitCommas t).mapM (fun p => parseLiteral (trimBlanks p))

/-- The line a mnemonic and its operands make (R60, R61). -/
def lineOf (mnemonic : List Char) (ops : List Nat) : Option AsmLine :=
  if mnemonic = "RXBYTE".toList then
    match ops with
    | [b] => some (.rxbyte b)
    | _ => none
  else if mnemonic = "SENDREQ".toList then
    if ops.isEmpty then some .sendreq else none
  else if mnemonic = "CRC_INIT".toList then
    if ops.isEmpty then some .crcInit else none
  else if mnemonic = "CRC_BYTE".toList then
    match ops with
    | [b] => some (.crcByte b)
    | _ => none
  else if mnemonic = "CRC_CMP".toList then
    match ops with
    | [lo, hi] => some (.crcCmp lo hi)
    | _ => none
  else if mnemonic = "RXFRAME".toList then some (.rxframe ops)
  else if mnemonic = "CRC_RUN".toList then some (.crcRun ops)
  else if mnemonic = "CRC_VERIFY".toList then
    match ops.reverse with
    | hi :: lo :: rest => some (.crcVerify rest.reverse lo hi)
    | _ => none
  else none

/-- One line of text (R60): a mnemonic, then its operands. -/
def parseLine (text : List Char) : Option AsmLine :=
  let t := trimBlanks (stripComment text)
  let mnemonic := t.takeWhile (fun c => !isBlank c)
  match parseOperands (t.drop mnemonic.length) with
  | some ops => lineOf mnemonic ops
  | none => none

/-- One line of text down to its commands. -/
def assembleText (text : List Char) : Option (List Instr) :=
  match parseLine text with
  | some l => assembleLine l
  | none => none

end Sys2Proof.Machine
end

