-- ==== Sys2Proof/Machine/Registers.lean ====
section
/-! DEFINITION. The read-only register map COLLAB reads between steps (R28, R29). There is no write path (R30). -/

namespace Sys2Proof.Machine

open Sys2Proof

/-- A field placed in a 32-bit register: zero everywhere else (R28: reserved bits read 0). -/
def fieldAt {w : Nat} (v : BitVec w) (low : Nat) : Word := v.setWidth 32 <<< low

/-- STATUS (0x00): `COUNT` [4:0], `LAST_ERR` [10:8], `CRC_OK` [16]. -/
def regStatus (s : State) : Word :=
  fieldAt s.count 0 ||| fieldAt (lastErrCode s.lastErr) 8 ||| fieldAt (BitVec.ofBool s.crcOk) 16

/-- DETk (0x04 + k): `AMP` [15:0], `DIST` [31:16]; a register with `k >= MAX_DET` reads 0. -/
def regDet (s : State) (k : Nat) : Word :=
  if k < s.cfg.maxDet.val then
    let d := s.rd.det.getD k Detection.zero
    fieldAt d.amp 0 ||| fieldAt d.dist 16
  else 0

/-- CRC (0x07): `CRC_LO` [7:0], `CRC_HI` [15:8]. -/
def regCrc (s : State) : Word := fieldAt s.crcAcc.lo 0 ||| fieldAt s.crcAcc.hi 8

/-- CONFIG (0x08): `DEV_ADDR` [7:0], `FUNC_CODE` [15:8], `MAX_DET` [17:16]. -/
def regConfig (cfg : Config) : Word :=
  fieldAt cfg.devAddr 0 ||| fieldAt funcCode 8 ||| fieldAt (BitVec.ofNat 2 cfg.maxDet.val) 16

/-- The register-read port (R28): a value for 0x00..0x08, and a refusal by name for every other number (R29).
A read changes nothing, so it is a function of the state and no step (log entry 18). -/
def readReg (s : State) (n : Byte) : Except Refusal Word :=
  match n.toNat with
  | 0 => .ok (regStatus s)
  | 1 => .ok s.rd.ts
  | 2 => .ok (fieldAt s.rd.temp 0)
  | 3 => .ok (fieldAt s.rd.ndet 0)
  | 4 => .ok (regDet s 0)
  | 5 => .ok (regDet s 1)
  | 6 => .ok (regDet s 2)
  | 7 => .ok (regCrc s)
  | 8 => .ok (regConfig s.cfg)
  | _ => .error .unmappedRegister

end Sys2Proof.Machine
end

