-- ==== Sys2Proof/Machine/Run.lean ====
section
/-! DEFINITION. A run of the block and what is observed of it (R135): the steps COLLAB's inputs make, one after another, with every
refusal kept. -/

namespace Sys2Proof.Machine

open Sys2Proof

/-- A run so far (R135): the state its last step left, and every refusal, oldest first. -/
structure Run where
  state : State
  refusals : List Refusal
  deriving DecidableEq, Repr

/-- A run that has made no step yet. -/
def startRun (s : State) : Run := { state := s, refusals := [] }

/-- One more refusal. -/
def keepRefusal (r : Run) (q : Refusal) : Run := { state := r.state, refusals := r.refusals ++ [q] }

/-- The state without its oldest input, and otherwise unchanged: what a refused step leaves (R57). -/
def dropInput (s : State) : State := s.setInbox s.inbox.tail

/-- One step of a run. A refused one changes no state of the block (R57), its refusal is kept (R135), and the run goes on with
COLLAB's next input (log entry 19). -/
def advanceRun (r : Run) : Except Fault Run :=
  match step r.state with
  | .next t => .ok { state := t, refusals := r.refusals }
  | .refused q => .ok (keepRefusal { state := dropInput r.state, refusals := r.refusals } q)
  | .fault f => .error f

/-- So many steps of a run, stopping at a fault only. -/
def advanceRunBy : Nat → Run → Except Fault Run
  | 0, r => .ok r
  | n + 1, r =>
    match advanceRun r with
    | .ok r' => advanceRunBy n r'
    | .error f => .error f

/-- The run over every input COLLAB has issued: "It ends when COLLAB issues no further command" (R135). -/
def runInbox (s : State) : Except Fault Run := advanceRunBy s.inbox.length (startRun s)

/-- A register read COLLAB makes between two steps of a run (R28, R42): its value, or a refusal (R29) that the run keeps. -/
def readDuringRun (r : Run) (n : Byte) : Option Word × Run :=
  match readReg r.state n with
  | .ok v => (some v, r)
  | .error q => (none, keepRefusal r q)

/-- What is observed of a run (R135): the events, in order, the nine registers of R28 after the last step, and every refusal. -/
structure Observation where
  events : List Event
  registers : List (Option Word)
  refusals : List Refusal
  deriving DecidableEq, Repr

/-- The value of a register, if the port gives one. -/
def regValue (s : State) (n : Byte) : Option Word :=
  match readReg s n with
  | .ok v => some v
  | .error _ => none

/-- The observation of a run (R135). -/
def observe (r : Run) : Observation :=
  { events := r.state.events
    registers := [0, 1, 2, 3, 4, 5, 6, 7, 8].map (regValue r.state)
    refusals := r.refusals }

end Sys2Proof.Machine
end

