-- ==== Sys2Proof/Safety.lean ====
section
/-! DEFINITION. What claims are stated with: the invariant of the states a run reaches, runs of commands, a frame's result over
its bytes alone, and the refusal of an input (R57). -/

namespace Sys2Proof.Machine

open Sys2Proof

/-- The shape of every state a run reaches: FRAME in canonical form and its first `COUNT` bytes written (R15, R16), `COUNT` below
25 (R16), and no detection held between steps (R20, R21). -/
abbrev State.Inv (s : State) : Prop :=
  s.frame.wf = true ∧ s.count.toNat < cap ∧ (∀ i < s.count.toNat, (s.frame.read? i).isSome = true) ∧
    s.rd.ndet = 0 ∧ s.rd.det = List.replicate s.cfg.maxDet.val Detection.zero

/-- An outcome is a next state that meets `P`. -/
def NextWith (o : Host.Outcome State Fault Refusal) (P : State → Prop) : Prop := ∃ t, o = .next t ∧ P t

/-- The next state of an outcome, if it is one. -/
def nextOf (o : Host.Outcome State Fault Refusal) : Option State :=
  match o with
  | .next t => some t
  | .fault _ => none
  | .refused _ => none

/-- Commands executed one after another (R43), stopping at the first that gives no next state. -/
def execAll : List Instr → State → Host.Outcome State Fault Refusal
  | [], s => .next s
  | i :: is, s =>
    match exec i s with
    | .next t => execAll is t
    | .fault f => .fault f
    | .refused r => .refused r

/-- The bytes as RXBYTE commands (R61's RXFRAME). -/
def rxFrame (bs : List Byte) : List Instr := bs.map Instr.rxbyte

/-- The command is an RXBYTE. -/
def isRxbyte (i : Instr) : Bool := i.opcode == .rxbyte

/-- The command is one of the test port's three. -/
def isTestPort (i : Instr) : Bool := i.opcode == .crcInit || i.opcode == .crcByte || i.opcode == .crcCmp

/-- FRAME holds these bytes, the first at index 0 (R36). -/
def FrameHolds (s : State) (bs : List Byte) : Prop := ∀ i, ∀ h : i < bs.length, s.frame.read? i = some bs[i]

/-- Every byte of FRAME has been written (R15). -/
abbrev FrameWritten (s : State) : Prop := ∀ i < cap, (s.frame.read? i).isSome = true

/-- Byte `i` of a frame given as a list; every index used below is inside a 25-byte frame. -/
def byteAt (bs : List Byte) (i : Nat) : Byte := bs.getD i 0

/-- Check 2 of R84 on a frame's bytes. -/
def bytesAddressed (cfg : Config) (bs : List Byte) : Bool :=
  byteAt bs 0 == cfg.devAddr && byteAt bs 1 == funcCode

/-- Check 3 of R84 on a frame's bytes. -/
def bytesVerified (bs : List Byte) : Bool := verify (bs.take 23) (byteAt bs 23) (byteAt bs 24)

/-- Record `k` of a frame's bytes, or (0, 0) beyond the count (R93). -/
def detectionOf (bs : List Byte) (k : Nat) : Detection :=
  if k < (byteAt bs 10).toNat then
    { dist := byteAt bs (11 + 4 * k) ++ byteAt bs (12 + 4 * k)
      amp := byteAt bs (13 + 4 * k) ++ byteAt bs (14 + 4 * k) }
  else { dist := 0, amp := 0 }

/-- The reading of a frame whose checks pass (R90-R93), field by field as R41's address map lays it out. -/
def readingOf (cfg : Config) (bs : List Byte) : Reading :=
  { ts := byteAt bs 5 ++ byteAt bs 6 ++ byteAt bs 3 ++ byteAt bs 4
    temp := byteAt bs 7 ++ byteAt bs 8
    ndet := byteAt bs 10
    det := (List.range cfg.maxDet.val).map (detectionOf bs) }

/-- The result of a 25-byte frame as a function of the configuration and its own bytes only (R80, R84, R85). -/
def responseOf (cfg : Config) (bs : List Byte) : CycleResult :=
  if bytesAddressed cfg bs = false then .err .badResponse
  else if bytesVerified bs = false then .err .badChecksum
  else if cfg.maxDet.val < (byteAt bs 10).toNat then .err .tooManyDetections
  else .ok (readingOf cfg bs)

/-- The `LAST_ERR` a cycle leaves (R79). -/
def lastErrOf (r : CycleResult) : LastErr :=
  match r with
  | .ok _ => .none
  | .err e => .failed e

/-- What a cycle leaves in `RD` (R79, R94): the decoded timestamp and temperature on success, the old ones on an error, and no
detection either way. -/
def readingAfter (cfg : Config) (old : Reading) (r : CycleResult) : Reading :=
  match r with
  | .ok snap => { ts := snap.ts, temp := snap.temp, ndet := 0, det := List.replicate cfg.maxDet.val Detection.zero }
  | .err _ => { ts := old.ts, temp := old.temp, ndet := 0, det := List.replicate cfg.maxDet.val Detection.zero }

/-- CRC-16/MODBUS computed bit by bit (R65): a 16-bit register, each byte added into its low half, then 8 shifts of R64. -/
def bitwiseCrc (msg : List Byte) : Half :=
  msg.foldl (fun c b => Nat.repeat genShift 8 (c ^^^ b.setWidth 16)) 0xFFFF

/-- The refusal R57 gives an input of COLLAB's, read off the word's fields alone: none for `RST` and for a legal word. -/
def refusalOfInput (x : Input) : Option Refusal :=
  match x with
  | .rst => none
  | .cmd w => if (cmdWordOf w).wellFormed then none else some (refusalOf (illegalReason (cmdWordOf w)))

/-- The inputs that have a meaning: `RST` and the legal words, in the order issued. -/
def meantInputs (inputs : List Input) : List Input := inputs.filter fun x => (refusalOfInput x).isNone

end Sys2Proof.Machine
end

