-- ==== Sys2Proof/Certificates/Slice0/Obligations.lean ====
section
/-! DEFINITION. The statements for the provers, each from the numbered rules of spec/. -/

open Sys2Proof Sys2Proof.Machine

/-! ### Encoding (30_encoding.md) -/

/-- R53, R55, R60: the word of every command decodes to that command, at every value of its operands. -/
def Obligations.EncodedCommandsDecodeBack : Prop :=
  ∀ i : Instr, decode (encode i) = .ok i ∧ decodeTableWord 32 (encode i).toNat = some i

/-- R53, R54: a word that decodes is exactly the word of the command it decodes to, so no bit of it is ignored; and the words that
decode are exactly those with an assigned `OP` and zero in every reserved field. -/
def Obligations.DecodedWordsEncodeBack : Prop :=
  ∀ w : Word, (∀ i, decode w = .ok i → encode i = w) ∧ ((∃ i, decode w = .ok i) ↔ (cmdWordOf w).wellFormed = true)

/-- R56: the decoder answers every word; the row a word matches decides its command; a word that matches no row gets R57's
refusal. That at most one row matches is the rule's own inference, "[derived: from the match/mask values of rule R53]". -/
def Obligations.DecoderFollowsTheOneMatchingRow : Prop :=
  ∀ w : Word,
    (∀ r ∈ opcodeTable, w &&& r.mask = r.pattern → decode w = .ok (instrOf r.op (cmdWordOf w))) ∧
    ((∀ r ∈ opcodeTable, w &&& r.mask ≠ r.pattern) → decode w = .error (illegalReason (cmdWordOf w))) ∧
    (∀ r ∈ opcodeTable, ∀ r' ∈ opcodeTable, w &&& r.mask = r.pattern → w &&& r'.mask = r'.pattern → r = r')

/-- R57, whole: the three classes of illegal word, each refused by `step` under its name. A refusal holds no next state. -/
def Obligations.IllegalWordsAreRefusedByName : Prop :=
  ∀ (s : State) (w : Word) (rest : List Input), s.inbox = .cmd w :: rest →
    ((w.extractLsb' 24 8 = 0x00 ∨ (0x03 ≤ (w.extractLsb' 24 8).toNat ∧ (w.extractLsb' 24 8).toNat ≤ 0x0F) ∨
        0x13 ≤ (w.extractLsb' 24 8).toNat) → step s = .refused .unknownOpcode) ∧
    (w.extractLsb' 24 8 ∈ [0x01, 0x02, 0x10, 0x11, 0x12] → w.extractLsb' 16 8 ≠ 0 → step s = .refused .reservedBits) ∧
    (w.extractLsb' 24 8 ∈ [0x01, 0x02, 0x10, 0x11] → w.extractLsb' 8 8 ≠ 0 → step s = .refused .reservedBits) ∧
    (w.extractLsb' 24 8 ∈ [0x02, 0x10] → w.extractLsb' 0 8 ≠ 0 → step s = .refused .reservedBits)

/-- Words written out from R60's table and 95_test_vectors.md part 3 decode to the commands they stand for. -/
def Obligations.SampleWordsDecode : Prop :=
  decode 0x010000A5 = .ok (.rxbyte 0xA5) ∧ decode 0x02000000 = .ok .sendreq ∧ decode 0x10000000 = .ok .crcInit ∧
    decode 0x11000031 = .ok (.crcByte 0x31) ∧ decode 0x12004B37 = .ok (.crcCmp 0x37 0x4B)

/-! ### Steps and inputs (R11, R43, R121, R122) -/

/-- R11, R43: when the oldest word COLLAB has issued decodes to a command, the step is `exec` of that command, on the state with
the word taken and nothing else changed. -/
def Obligations.StepRunsTheDecodedCommand : Prop :=
  ∀ (s : State) (w : Word) (rest : List Input) (i : Instr), s.inbox = .cmd w :: rest → decode w = .ok i →
    step s = exec i { s with inbox := rest }

/-- R42, R43, R135: the words of any commands, issued together and taken one a step, run in the order issued: as many steps as words
give what executing the commands one after another gives. A run over any inputs at all, from a state that meets the invariant,
completes with no fault: it keeps every refusal of R57, in order, and leaves the state that the other inputs alone lead to. That the
words wait in `inbox` is the model's (log entry 4), and so is the form in which a run keeps its refusals (log entry 19). -/
def Obligations.IssuedWordsRunInOrder : Prop :=
  (∀ (s : State) (is : List Instr),
    Host.Core.run Sys2Proof.core is.length ({ s with inbox := is.map fun i => .cmd (encode i) } : State) =
      execAll is { s with inbox := [] }) ∧
    ∀ (s : State) (inputs : List Input), s.Inv →
      ∃ t, runInbox { s with inbox := inputs } = .ok { state := t, refusals := inputs.filterMap refusalOfInput } ∧
        Host.Core.run Sys2Proof.core (meantInputs inputs).length ({ s with inbox := meantInputs inputs } : State) = .next t ∧
        t.inbox = [] ∧ t.Inv

/-- R121: while no command arrives, the state is held unchanged (log entry 5: the step then answers that same state). -/
def Obligations.StateIsHeldWhileNothingIsIssued : Prop :=
  ∀ s : State, s.inbox = [] → step s = .next s

/-- R122, R123, R124: `RST` is a step of its own, in any state, mid-frame too; it sets every element to its reset value, leaves the
configuration and emits no event. That the inputs still to come and the events already given stay is the model's (log entry 7). -/
def Obligations.ResetInputSetsEveryElement : Prop :=
  ∀ (s : State) (rest : List Input), s.inbox = .rst :: rest →
    NextWith (step s) fun t =>
      (∀ a, t.frame.read? a = none) ∧ t.count = 0 ∧ t.rd.ts = 0 ∧ t.rd.temp = 0 ∧ t.rd.ndet = 0 ∧
        t.rd.det = List.replicate s.cfg.maxDet.val { dist := 0, amp := 0 } ∧ t.lastErr = .none ∧
        t.crcAcc = { lo := 0xFF, hi := 0xFF } ∧ t.crcOk = false ∧ t.cfg = s.cfg ∧ t.inbox = rest ∧ t.events = s.events

/-- R123, whole, under every configuration: the reset value of every element, and a read of an UNWRITTEN byte is a fault. -/
def Obligations.ResetStateHoldsTheListedValues : Prop :=
  ∀ cfg : Config,
    (∀ a < 25, readFrame (State.resetWith cfg) a = .error (.unwrittenFrameByte a)) ∧
      (State.resetWith cfg).count = 0 ∧ (State.resetWith cfg).rd.ts = 0x00000000 ∧ (State.resetWith cfg).rd.temp = 0x0000 ∧
      (State.resetWith cfg).rd.ndet = 0 ∧
      (State.resetWith cfg).rd.det = List.replicate cfg.maxDet.val { dist := 0, amp := 0 } ∧
      lastErrCode (State.resetWith cfg).lastErr = 0 ∧ (State.resetWith cfg).crcAcc = { lo := 0xFF, hi := 0xFF } ∧
      (State.resetWith cfg).crcOk = false ∧ (State.resetWith cfg).cfg = cfg

/-! ### Checksum engine (40_checksum.md) -/

/-- R64: both listed tables are the generator's output, 256 entries each. -/
def Obligations.TablesAreTheGeneratorsOutput : Prop :=
  tLo.length = 256 ∧ tHi.length = 256 ∧
    ∀ i : Byte, readTLo i = (genEntry i).extractLsb' 0 8 ∧ readTHi i = (genEntry i).extractLsb' 8 8

/-- R66: the step on the two halves, the rule's example, and its reading as one 16-bit register, which the rule marks as its own
inference, "[derived: from rule R64]". -/
def Obligations.ChecksumStepIsTheCorrectedRecurrence : Prop :=
  (∀ (a : CrcAcc) (b : Byte),
    (crcStep a b).lo = a.hi ^^^ readTLo (a.lo ^^^ b) ∧ (crcStep a b).hi = readTHi (a.lo ^^^ b) ∧
      (crcStep a b).hi ++ (crcStep a b).lo =
        ((a.hi ++ a.lo : Half) >>> 8) ^^^ (readTHi (a.lo ^^^ b) ++ readTLo (a.lo ^^^ b) : Half)) ∧
    crcStep { lo := 0xFF, hi := 0xFF } 0x01 = { lo := 0x7E, hi := 0x80 }

/-- R65, R67: on every message the table-driven engine computes CRC-16/MODBUS as its definition gives it bit by bit, and the
standard check value. -/
def Obligations.TableEngineEqualsBitwiseModbusCrc : Prop :=
  (∀ msg : List Byte, (compute msg).hi ++ (compute msg).lo = bitwiseCrc msg) ∧
    compute [0x31, 0x32, 0x33, 0x34, 0x35, 0x36, 0x37, 0x38, 0x39] = { lo := 0x37, hi := 0x4B }

/-- R73 property 1: a checksum that `compute` gave verifies, and no other pair of bytes does (R68). -/
def Obligations.VerifyAcceptsOnlyTheComputedPair : Prop :=
  ∀ (msg : List Byte) (lo hi : Byte), verify msg lo hi = true ↔ compute msg = { lo := lo, hi := hi }

/-- R73 property 2, strengthened from one bit to any change of one byte: a message that verifies stops verifying when one of its
bytes, at any place, takes any other value, so every single-bit flip is detected. -/
def Obligations.EveryOneByteCorruptionIsDetected : Prop :=
  ∀ (before after : List Byte) (b b' lo hi : Byte), b ≠ b' →
    verify (before ++ b :: after) lo hi = true → verify (before ++ b' :: after) lo hi = false

/-- R70: `CRC_INIT` completes from every state; it reseeds the accumulator, clears `CRC_OK` and changes nothing else. -/
def Obligations.CrcInitReseedsTheAccumulator : Prop :=
  ∀ s : State, exec .crcInit s = .next { s with crcAcc := { lo := 0xFF, hi := 0xFF }, crcOk := false }

/-- R71: `CRC_BYTE b` completes from every state; it takes one step of R66 and changes nothing else, `CRC_OK` included. -/
def Obligations.CrcByteTakesOneStep : Prop :=
  ∀ (s : State) (b : Byte),
    exec (.crcByte b) s =
      .next { s with crcAcc := { lo := s.crcAcc.hi ^^^ readTLo (s.crcAcc.lo ^^^ b), hi := readTHi (s.crcAcc.lo ^^^ b) } }

/-- R72: `CRC_CMP lo, hi` completes from every state; `CRC_OK` says whether both bytes match, and nothing else changes. -/
def Obligations.CrcCmpWritesOnlyCrcOk : Prop :=
  ∀ (s : State) (lo hi : Byte),
    exec (.crcCmp lo hi) s = .next { s with crcOk := decide (s.crcAcc.lo = lo ∧ s.crcAcc.hi = hi) }

/-- R61, R71: the expansion of `CRC_RUN` completes from every state and leaves the accumulator at `compute` of its bytes; nothing
but the test port changes. -/
def Obligations.CrcRunComputesTheChecksum : Prop :=
  ∀ (s : State) (bs : List Byte),
    execAll (.crcInit :: bs.map Instr.crcByte) s = .next { s with crcAcc := compute bs, crcOk := false }

/-- R61: a well-formed `CRC_VERIFY` line assembles, and running its commands leaves `CRC_OK` at `verify` of its operands, as the
rule's own inference "[derived: from rules R68, R72]" says. -/
def Obligations.CrcVerifyLineSetsCrcOk : Prop :=
  ∀ (s : State) (bs : List Nat) (lo hi : Nat), (AsmLine.crcVerify bs lo hi).wellFormed = true →
    ∃ is, assembleLine (.crcVerify bs lo hi) = some is ∧
      NextWith (execAll is s) fun t =>
        t.crcOk = verify (bs.map (BitVec.ofNat 8)) (BitVec.ofNat 8 lo) (BitVec.ofNat 8 hi) ∧
          t.crcAcc = compute (bs.map (BitVec.ofNat 8)) ∧ t.events = s.events

/-! ### Request builder (43_request_builder.md) -/

/-- R98, R99, R100: `SENDREQ` completes from every state and emits exactly one event, the request frame of R62 with its checksum
low byte first; nothing else changes. That the event goes onto `events` is log entry 6. -/
def Obligations.SendreqEmitsTheRequestFrame : Prop :=
  ∀ s : State,
    exec .sendreq s = .next { s with events := s.events ++
      [.tx #v[s.cfg.devAddr, 0x04, 0x00, 0x14, 0x00, 0x0A,
        (compute [s.cfg.devAddr, 0x04, 0x00, 0x14, 0x00, 0x0A]).lo,
        (compute [s.cfg.devAddr, 0x04, 0x00, 0x14, 0x00, 0x0A]).hi]] }

/-- R101, whole: `SENDREQ` reads no state (what it emits is the same from any two states of one configuration) and writes none. -/
def Obligations.SendreqReadsAndWritesNoState : Prop :=
  ∀ cfg : Config, ∃ e : Event, ∀ s : State, s.cfg = cfg → exec .sendreq s = .next { s with events := s.events ++ [e] }

/-- The request frames of R102's six sample addresses, values the spec marks "[derived: from rules R98, R99". -/
def Obligations.SampleRequestFrames : Prop :=
  ∀ p ∈ ([(0x00, #v[0x00, 0x04, 0x00, 0x14, 0x00, 0x0A, 0x31, 0xD8]), (0x01, #v[0x01, 0x04, 0x00, 0x14, 0x00, 0x0A, 0x30, 0x09]),
      (0x02, #v[0x02, 0x04, 0x00, 0x14, 0x00, 0x0A, 0x30, 0x3A]), (0x0F, #v[0x0F, 0x04, 0x00, 0x14, 0x00, 0x0A, 0x31, 0x27]),
      (0xF7, #v[0xF7, 0x04, 0x00, 0x14, 0x00, 0x0A, 0x24, 0x9F]), (0xFF, #v[0xFF, 0x04, 0x00, 0x14, 0x00, 0x0A, 0x25, 0xD7])]
      : List (Byte × Vector Byte 8)),
    ∀ s : State, s.cfg.devAddr = p.1 → exec .sendreq s = .next { s with events := s.events ++ [.tx p.2] }

/-! ### Frame assembler (41_frame_assembler.md) -/

/-- R75: the append stores the byte at index `COUNT`, leaves every other byte, and increments `COUNT`. That the increment does not wrap
is the rule's own inference "[derived: from 10_state.md rule R16]". -/
def Obligations.AppendStoresAtTheFillPosition : Prop :=
  ∀ (s : State) (b : Byte), s.count.toNat < 25 →
    ∃ t, append s b = .ok t ∧ t.frame.read? s.count.toNat = some b ∧
      (∀ a, a ≠ s.count.toNat → t.frame.read? a = s.frame.read? a) ∧ t.count.toNat = s.count.toNat + 1 ∧
      t = { s with frame := t.frame, count := t.count }

/-- R76: an RXBYTE that leaves `COUNT < 25` completes: it stores its byte, touches no `RD`, no `LAST_ERR` and nothing else of the
state, emits no event, and leaves the assembler Accumulating. -/
def Obligations.RxbyteBeforeTheLastOnlyStores : Prop :=
  ∀ (s : State) (b : Byte), s.count.toNat < 24 →
    NextWith (exec (.rxbyte b) s) fun t =>
      t.frame.read? s.count.toNat = some b ∧ (∀ a, a ≠ s.count.toNat → t.frame.read? a = s.frame.read? a) ∧
        t.count.toNat = s.count.toNat + 1 ∧ asmState t.count false = some .accumulating ∧
        t = { s with frame := t.frame, count := t.count }

/-- R76's quotation "feeding 24 bytes never triggers a decode": from any state with `COUNT = 0`, 24 or fewer bytes emit nothing and
leave `RD` and `LAST_ERR`. -/
def Obligations.TwentyFourBytesNeverDecode : Prop :=
  ∀ (s : State) (bs : List Byte), s.count = 0 → bs.length ≤ 24 →
    NextWith (execAll (rxFrame bs) s) fun t =>
      t.events = s.events ∧ t.rd = s.rd ∧ t.lastErr = s.lastErr ∧ t.count.toNat = bs.length ∧ FrameHolds t bs

/-- R77, whole: the overflow guard, on every `COUNT` from 25 to 31: the byte is not written, the error is recorded and reported,
the detections are cleared, `COUNT` is 0 and the next request is asked for; nothing else changes. -/
def Obligations.OverflowGuardRecovers : Prop :=
  ∀ (s : State) (b : Byte), 25 ≤ s.count.toNat →
    exec (.rxbyte b) s = .next { s with
      count := 0
      lastErr := .failed .overflow
      rd := { s.rd with ndet := 0, det := List.replicate s.cfg.maxDet.val { dist := 0, amp := 0 } }
      events := s.events ++ [.cycle (.err .overflow), .reqNext] }

/-- R78: the append that fills the frame runs DECODE on the 25 bytes and then `cycle_end` with its result, in the same step, and
leaves `COUNT` at 0, the rule's own inference "[derived: from rule R79]". The step completes when the 24 bytes before it have been
written; that an UNWRITTEN one stops it is log entry 8. -/
def Obligations.FillingTheFrameDecodesAndResets : Prop :=
  ∀ (s : State) (b : Byte), s.count = 24 → (∀ i < 24, (s.frame.read? i).isSome = true) →
    ∃ t r, append s b = .ok t ∧ decodeFrame t 25 = .ok r ∧
      exec (.rxbyte b) s = .next (cycleEnd (writeDecoded t r) r) ∧ (cycleEnd (writeDecoded t r) r).count = 0

/-- R79, whole: what `cycle_end` writes and emits, and what it keeps. -/
def Obligations.CycleEndIsTheCommonRecovery : Prop :=
  ∀ (s : State) (r : CycleResult),
    cycleEnd s r = { s with
      lastErr := lastErrOf r
      count := 0
      rd := { s.rd with ndet := 0, det := List.replicate s.cfg.maxDet.val { dist := 0, amp := 0 } }
      events := s.events ++ [.cycle r, .reqNext] }

/-- R34, R40: the frame of RXBYTE over FRAME, in every state: the only byte it can change is the one at index `COUNT`, and only
when `COUNT < 25`. Configuration, test port and inputs are unchanged. -/
def Obligations.RxbyteWritesOneByteAtMost : Prop :=
  ∀ (s t : State) (b : Byte), exec (.rxbyte b) s = .next t →
    (∀ a, ¬(a = s.count.toNat ∧ s.count.toNat < 25) → t.frame.read? a = s.frame.read? a) ∧
      (s.count.toNat < 25 → t.frame.read? s.count.toNat = some b) ∧
      t.cfg = s.cfg ∧ t.crcAcc = s.crcAcc ∧ t.crcOk = s.crcOk ∧ t.inbox = s.inbox

/-- R34, R50: no step, of any state whatever, answers the fault that an access at index 25 or above is, and nothing at such an index
changes. That such an access is the fault `noFrameIndex` is log entry 9 (DEDUCED): only through it does the first clause say that no
step forms the index. -/
def Obligations.NoFrameIndexAboveTwentyFour : Prop :=
  (∀ (s : State) (i : Nat), step s ≠ .fault (.noFrameIndex i)) ∧
    ∀ (s t : State) (i : Instr), exec i s = .next t → ∀ a, 25 ≤ a → t.frame.read? a = s.frame.read? a

/-- R123, I5, log entries 8 and 10: a fill whose FRAME[0] was never written stops as the read of an UNWRITTEN byte. Only a
constructed state is such. -/
def Obligations.DecodingAnUnwrittenByteFaults : Prop :=
  ∀ (s : State) (b : Byte), s.count = 24 → s.frame.read? 0 = none →
    exec (.rxbyte b) s = .fault (.unwrittenFrameByte 0)

/-! ### Response decoder (42_response_decoder.md) -/

/-- R86: a length other than 25 is `BAD_RESPONSE`, whatever the frame holds. -/
def Obligations.WrongLengthIsBadResponse : Prop :=
  ∀ (s : State) (len : Nat), len ≠ 25 → decodeFrame s len = .ok (.err .badResponse)

/-- R87: an exact 8-bit comparison of bytes 0 and 1 decides `BAD_RESPONSE`, and decides it alone. -/
def Obligations.AddressAndFunctionDecideBadResponse : Prop :=
  ∀ (s : State) (bs : List Byte), bs.length = 25 → FrameHolds s bs →
    (decodeFrame s 25 = .ok (.err .badResponse) ↔ (byteAt bs 0 ≠ s.cfg.devAddr ∨ byteAt bs 1 ≠ 0x04))

/-- R88: past check 2, `BAD_CHECKSUM` is exactly a mismatch of bytes 23 and 24 with the checksum of bytes 0..22, low byte first;
the test port's accumulator has no part in it. -/
def Obligations.ChecksumOfTheFrameDecidesBadChecksum : Prop :=
  ∀ (s : State) (bs : List Byte), bs.length = 25 → FrameHolds s bs → byteAt bs 0 = s.cfg.devAddr → byteAt bs 1 = 0x04 →
    (decodeFrame s 25 = .ok (.err .badChecksum) ↔ compute (bs.take 23) ≠ { lo := byteAt bs 23, hi := byteAt bs 24 }) ∧
      ∀ (a : CrcAcc) (ok : Bool), decodeFrame { s with crcAcc := a, crcOk := ok } 25 = decodeFrame s 25

/-- R89: past check 3, `TOO_MANY_DETECTIONS` is exactly a count above `MAX_DET`, compared unsigned; a count of `MAX_DET` or less
passes and is not clamped. -/
def Obligations.CountAboveCapacityIsAnError : Prop :=
  ∀ (s : State) (bs : List Byte), bs.length = 25 → FrameHolds s bs → bytesAddressed s.cfg bs = true → bytesVerified bs = true →
    (s.cfg.maxDet.val < (byteAt bs 10).toNat → decodeFrame s 25 = .ok (.err .tooManyDetections)) ∧
      ((byteAt bs 10).toNat ≤ s.cfg.maxDet.val → ∃ snap, decodeFrame s 25 = .ok (.ok snap) ∧ snap.ndet = byteAt bs 10)

/-- R90, R91, R92, R93: a frame that passes every check is read as the interleaved timestamp, the temperature, the count, and each
record below the count, with (0, 0) beyond it. -/
def Obligations.ExtractedFieldsFollowTheLayout : Prop :=
  ∀ (s : State) (bs : List Byte) (snap : Reading), bs.length = 25 → FrameHolds s bs → decodeFrame s 25 = .ok (.ok snap) →
    snap.ts = (((byteAt bs 5).setWidth 32 <<< 24) ||| ((byteAt bs 6).setWidth 32 <<< 16) |||
        ((byteAt bs 3).setWidth 32 <<< 8) ||| (byteAt bs 4).setWidth 32) ∧
      snap.ts.extractLsb' 24 8 = byteAt bs 5 ∧ snap.ts.extractLsb' 16 8 = byteAt bs 6 ∧
      snap.ts.extractLsb' 8 8 = byteAt bs 3 ∧ snap.ts.extractLsb' 0 8 = byteAt bs 4 ∧
      snap.temp.toNat = (byteAt bs 7).toNat * 256 + (byteAt bs 8).toNat ∧
      snap.ndet = byteAt bs 10 ∧ snap.ndet.toNat ≤ s.cfg.maxDet.val ∧ snap.det.length = s.cfg.maxDet.val ∧
      ∀ k, ∀ h : k < snap.det.length,
        (k < (byteAt bs 10).toNat →
          snap.det[k].dist.toNat = (byteAt bs (11 + 4 * k)).toNat * 256 + (byteAt bs (12 + 4 * k)).toNat ∧
            snap.det[k].amp.toNat = (byteAt bs (13 + 4 * k)).toNat * 256 + (byteAt bs (14 + 4 * k)).toNat) ∧
          ((byteAt bs 10).toNat ≤ k → snap.det[k] = { dist := 0, amp := 0 })

/-- R84, R85, R110: DECODE of a fully written frame answers, and its answer is the first failing check in the order address and
function, checksum, count, or the reading: a function of the configuration and the frame's bytes alone. -/
def Obligations.DecodeRefinesTheFrameBytes : Prop :=
  ∀ (s : State) (bs : List Byte), bs.length = 25 → FrameHolds s bs → decodeFrame s 25 = .ok (responseOf s.cfg bs)

/-- R94: a success replaces all of `RD`, an error writes no part of it; after `cycle_end` the detections are clear in both cases
and an error has left `RD.TS` and `RD.TEMP`. -/
def Obligations.DecodeWritesAllOfTheReadingOrNone : Prop :=
  ∀ s : State,
    (∀ snap, writeDecoded s (.ok snap) = { s with rd := snap }) ∧ (∀ e, writeDecoded s (.err e) = s) ∧
      ∀ r, (cycleEnd (writeDecoded s r) r).rd = readingAfter s.cfg s.rd r

/-- R95: bytes 2 and 9 and every record beyond the count have no say in the reading: two good frames that differ only there, and in
the checksums that go with them, are read alike. R95 marks it "[derived: from rule R84]"; log entry 11 says what the model reads.
-/
def Obligations.UnusedBytesDoNotMatter : Prop :=
  ∀ (cfg : Config) (bs bs' : List Byte), bs.length = 25 → bs'.length = 25 → bytesVerified bs = true → bytesVerified bs' = true →
    (∀ i, i < 23 → i ≠ 2 → i ≠ 9 → i < 11 + 4 * (byteAt bs 10).toNat → byteAt bs' i = byteAt bs i) →
    ∀ s s' : State, s.cfg = cfg → s'.cfg = cfg → FrameHolds s bs → FrameHolds s' bs' → decodeFrame s' 25 = decodeFrame s 25

/-- R97: the source's example frame, fed byte by byte to a block with address 0x01, is decoded as the rule lists. -/
def Obligations.ExampleFrameDecodes : Prop :=
  NextWith (execAll (rxFrame [0x01, 0x04, 0x00, 0x14, 0x00, 0x00, 0x19, 0x80, 0x00, 0x00, 0x01, 0x00, 0x64, 0x00, 0x80, 0x00, 0x00,
      0x00, 0x00, 0x00, 0x00, 0x00, 0x00, 0xC3, 0xC2]) (State.resetWith { devAddr := 0x01, maxDet := 3 })) fun t =>
    t.events = [.cycle (.ok
        { ts := 0x00191400
          temp := 0x8000
          ndet := 1
          det := [{ dist := 100, amp := 0x0080 }, { dist := 0, amp := 0 }, { dist := 0, amp := 0 }] }), .reqNext] ∧
      t.rd.ts = 0x00191400 ∧ t.rd.temp = 0x8000 ∧ t.lastErr = .none ∧ t.count = 0

/-! ### Whole cycles and whole runs -/

/-- R78, R79, R80, R84: from every state with `COUNT = 0`, whatever its stale FRAME bytes, its reading and its test port hold, 25
bytes complete, run one cycle whose result those 25 bytes alone decide, and leave what that result says. -/
def Obligations.TwentyFiveBytesMakeOneCycle : Prop :=
  ∀ (s : State) (bs : List Byte), s.count = 0 → bs.length = 25 →
    NextWith (execAll (rxFrame bs) s) fun t =>
      t.events = s.events ++ [.cycle (responseOf s.cfg bs), .reqNext] ∧ t.count = 0 ∧
        t.lastErr = lastErrOf (responseOf s.cfg bs) ∧ t.rd = readingAfter s.cfg s.rd (responseOf s.cfg bs) ∧
        FrameHolds t bs ∧ t.cfg = s.cfg ∧ t.crcAcc = s.crcAcc ∧ t.crcOk = s.crcOk ∧ t.inbox = s.inbox

/-- R80, self-healing, which the rule marks "[derived: from rules R74, R79": from any two states at `COUNT = 0` of one
configuration, for instance the end of any cycle and reset, every sequence of commands completes and produces the same events. -/
def Obligations.AfterACycleTheBlockActsAsFresh : Prop :=
  ∀ (s s' : State) (is : List Instr), s.cfg = s'.cfg → s.count = 0 → s'.count = 0 →
    ∃ evs t t', execAll is s = .next t ∧ execAll is s' = .next t' ∧ t.events = s.events ++ evs ∧ t'.events = s'.events ++ evs ∧
      t.count = t'.count

/-- R83, first sentence, which the rule marks "[derived: from rules R75, R77, R78, R79": every sequence of commands from reset
completes, with `COUNT` the number of RXBYTEs modulo 25. -/
def Obligations.CountIsRxbytesModuloTwentyFive : Prop :=
  ∀ (cfg : Config) (is : List Instr),
    NextWith (execAll is (State.resetWith cfg)) fun t => t.count.toNat = (is.countP isRxbyte) % 25

/-- R15, R16, R20, R21: every step of a state that meets the invariant leads to one that meets it. -/
def Obligations.StepsKeepTheInvariant : Prop :=
  ∀ s t : State, s.Inv → step s = .next t → t.Inv

/-- R123: the reset state, under every configuration and under the model's own, meets the invariant. -/
def Obligations.ResetMeetsTheInvariant : Prop :=
  (∀ cfg : Config, (State.resetWith cfg).Inv) ∧ State.reset.Inv

/-- R82, R103, R116: in every state that meets the invariant, every command completes with a next state, which meets it too: no
command traps, faults or is refused. -/
def Obligations.EveryCommandCompletesUnderTheInvariant : Prop :=
  ∀ (s : State) (i : Instr), s.Inv → NextWith (exec i s) State.Inv

/-- The canonical form of FRAME is kept by every step of every state, reachable or not (log entry 8). -/
def Obligations.StepsKeepFrameCanonical : Prop :=
  ∀ s t : State, s.frame.wf = true → step s = .next t → t.frame.wf = true

/-- R7, R26: no step, of any state, changes the configuration, and the CONFIG register shows it (R28). -/
def Obligations.NoStepChangesTheConfiguration : Prop :=
  ∀ s t : State, step s = .next t → t.cfg = s.cfg ∧ readReg t 8 = readReg s 8

/-- R16, R81: only RXBYTE and reset change `COUNT`; of the commands only RXBYTE changes `FRAME`, `RD` or `LAST_ERR`. -/
def Obligations.OnlyRxbyteTouchesTheFramePath : Prop :=
  ∀ (s t : State) (i : Instr), isRxbyte i = false → exec i s = .next t →
    t.count = s.count ∧ t.frame = s.frame ∧ t.rd = s.rd ∧ t.lastErr = s.lastErr ∧ t.cfg = s.cfg ∧ t.inbox = s.inbox

/-- R23, R24, R25: only the test port's commands change `CRC_LO`, `CRC_HI` and `CRC_OK`; of these only CRC_INIT and CRC_BYTE change
the accumulator, and only CRC_INIT and CRC_CMP change `CRC_OK`; and they emit nothing. -/
def Obligations.OnlyTheTestPortTouchesItsState : Prop :=
  ∀ (s t : State) (i : Instr), exec i s = .next t →
    (isTestPort i = false → t.crcAcc = s.crcAcc ∧ t.crcOk = s.crcOk) ∧
      (i.opcode = .crcCmp → t.crcAcc = s.crcAcc) ∧ (i.opcode = .crcByte → t.crcOk = s.crcOk) ∧
      (isTestPort i = true → t.events = s.events)

/-- R18, R19, R130: `RD.TS` and `RD.TEMP` change only in a step whose cycle decoded successfully, to the values its event carries.
-/
def Obligations.TimestampChangesOnlyOnSuccess : Prop :=
  ∀ (s t : State) (i : Instr), exec i s = .next t →
    (t.rd.ts = s.rd.ts ∧ t.rd.temp = s.rd.temp) ∨
      ∃ snap, t.events = s.events ++ [.cycle (.ok snap), .reqNext] ∧ t.rd.ts = snap.ts ∧ t.rd.temp = snap.temp

/-- R22: `LAST_ERR` changes only at a cycle end, to that cycle's outcome; codes 5..7 never arise. -/
def Obligations.LastErrRecordsTheLastCycle : Prop :=
  (∀ l : LastErr, (lastErrCode l).toNat ≤ 4) ∧
    ∀ (s t : State) (i : Instr), exec i s = .next t →
      (t.lastErr = s.lastErr ∧ ∀ r, .cycle r ∈ t.events → .cycle r ∈ s.events) ∨
        ∃ r, t.events = s.events ++ [.cycle r, .reqNext] ∧ t.lastErr = lastErrOf r

/-- R109, which the rule marks "[derived: from" R74, R79 and R100: the events of a step, in order, by the input it takes and the
`COUNT` it finds. That a step with nothing issued emits nothing is log entry 5. -/
def Obligations.EventsOfEachStepInOrder : Prop :=
  (∀ (s t : State) (b : Byte), exec (.rxbyte b) s = .next t →
    (s.count.toNat < 24 → t.events = s.events) ∧
      (s.count.toNat = 24 → ∃ r, t.events = s.events ++ [.cycle r, .reqNext]) ∧
      (25 ≤ s.count.toNat → t.events = s.events ++ [.cycle (.err .overflow), .reqNext])) ∧
    (∀ s t : State, exec .sendreq s = .next t → ∃ f, t.events = s.events ++ [.tx f]) ∧
    (∀ (s t : State) (i : Instr), isTestPort i = true → exec i s = .next t → t.events = s.events) ∧
    ∀ s t : State, (s.inbox = [] ∨ ∃ rest, s.inbox = .rst :: rest) → step s = .next t → t.events = s.events

/-- R111, which the rule marks "[derived: from" R74, R77 and R78: an RXBYTE reports `OVERFLOW` exactly when it finds `COUNT >= 25`;
a DECODE never returns it, so one cycle has one outcome. -/
def Obligations.OverflowExcludesTheDecodeErrors : Prop :=
  (∀ (s : State) (len : Nat), decodeFrame s len ≠ .ok (.err .overflow)) ∧
    ∀ (s t : State) (b : Byte), exec (.rxbyte b) s = .next t →
      (t.events = s.events ++ [.cycle (.err .overflow), .reqNext] ↔ 25 ≤ s.count.toNat)

/-! ### Register map and assembler state (10_state.md) -/

/-- R28, whole: every field of every register, reserved bits 0, and no register above `MAX_DET` shows a detection. A read is a
function of the state and has no effect on it. -/
def Obligations.RegisterMapShowsTheFields : Prop :=
  ∀ s : State,
    (∃ v, readReg s 0x00 = .ok v ∧ v.extractLsb' 0 5 = s.count ∧ v.extractLsb' 5 3 = 0 ∧
      v.extractLsb' 8 3 = lastErrCode s.lastErr ∧ v.extractLsb' 11 5 = 0 ∧ v.extractLsb' 16 1 = BitVec.ofBool s.crcOk ∧
      v.extractLsb' 17 15 = 0) ∧
    readReg s 0x01 = .ok s.rd.ts ∧
    (∃ v, readReg s 0x02 = .ok v ∧ v.extractLsb' 0 16 = s.rd.temp ∧ v.extractLsb' 16 16 = 0) ∧
    (∃ v, readReg s 0x03 = .ok v ∧ v.extractLsb' 0 8 = s.rd.ndet ∧ v.extractLsb' 8 24 = 0) ∧
    (∀ k < 3, ∃ v, readReg s (BitVec.ofNat 8 (4 + k)) = .ok v ∧
      (s.cfg.maxDet.val ≤ k → v = 0) ∧
      ∀ d, k < s.cfg.maxDet.val → s.rd.det[k]? = some d → v.extractLsb' 0 16 = d.amp ∧ v.extractLsb' 16 16 = d.dist) ∧
    (∃ v, readReg s 0x07 = .ok v ∧ v.extractLsb' 0 8 = s.crcAcc.lo ∧ v.extractLsb' 8 8 = s.crcAcc.hi ∧ v.extractLsb' 16 16 = 0) ∧
    (∃ v, readReg s 0x08 = .ok v ∧ v.extractLsb' 0 8 = s.cfg.devAddr ∧ v.extractLsb' 8 8 = 0x04 ∧
      (v.extractLsb' 16 2).toNat = s.cfg.maxDet.val ∧ v.extractLsb' 18 14 = 0)

/-- R29: a read of any number from 0x09 to 0xFF is refused by name, and no other read is refused. -/
def Obligations.UnmappedReadsAreRefused : Prop :=
  ∀ (s : State) (n : Byte), readReg s n = .error .unmappedRegister ↔ 9 ≤ n.toNat

/-- R20, R21, R130: between steps, in every state that meets the invariant, NDET and the three DET registers read 0. -/
def Obligations.DetectionRegistersReadZeroAtRest : Prop :=
  ∀ s : State, s.Inv → readReg s 3 = .ok 0 ∧ readReg s 4 = .ok 0 ∧ readReg s 5 = .ok 0 ∧ readReg s 6 = .ok 0

/-- R17: the table's four rows, and that only Idle and Accumulating are seen between steps, the rule's own inference "[derived: from
rule R16]", in every state that meets the invariant. That 26..31 without a byte is no state is log entry 20. -/
def Obligations.AssemblerStateFollowsCount : Prop :=
  (∀ (c : BitVec 5) (arrives : Bool),
    (asmState c arrives = some .idle ↔ c = 0) ∧ (asmState c arrives = some .accumulating ↔ 1 ≤ c.toNat ∧ c.toNat ≤ 24) ∧
      (asmState c false = some .full ↔ c.toNat = 25) ∧ (asmState c true = some .overflow ↔ 25 ≤ c.toNat)) ∧
    ∀ s : State, s.Inv → asmState s.count false = some .idle ∨ asmState s.count false = some .accumulating

/-- R60, R61: on every form of line, an assembler refuses a literal above 255 and an empty `RXFRAME`, and otherwise gives the line's
commands in order: a command line itself, and a pseudo-instruction its expansion. -/
def Obligations.AssemblerExpandsOrRefuses : Prop :=
  (∀ b : Nat, assembleLine (.rxbyte b) = if b ≤ 255 then some [.rxbyte (BitVec.ofNat 8 b)] else none) ∧
    assembleLine .sendreq = some [.sendreq] ∧ assembleLine .crcInit = some [.crcInit] ∧
    (∀ b : Nat, assembleLine (.crcByte b) = if b ≤ 255 then some [.crcByte (BitVec.ofNat 8 b)] else none) ∧
    (∀ lo hi : Nat, assembleLine (.crcCmp lo hi) =
      if lo ≤ 255 ∧ hi ≤ 255 then some [.crcCmp (BitVec.ofNat 8 lo) (BitVec.ofNat 8 hi)] else none) ∧
    (∀ bs : List Nat, assembleLine (.rxframe bs) =
      if bs ≠ [] ∧ ∀ b ∈ bs, b ≤ 255 then some (bs.map fun b => .rxbyte (BitVec.ofNat 8 b)) else none) ∧
    (∀ bs : List Nat, assembleLine (.crcRun bs) =
      if ∀ b ∈ bs, b ≤ 255 then some (.crcInit :: bs.map fun b => .crcByte (BitVec.ofNat 8 b)) else none) ∧
    ∀ (bs : List Nat) (lo hi : Nat), assembleLine (.crcVerify bs lo hi) =
      if (∀ b ∈ bs, b ≤ 255) ∧ lo ≤ 255 ∧ hi ≤ 255 then
        some (.crcInit :: (bs.map fun b => .crcByte (BitVec.ofNat 8 b)) ++ [.crcCmp (BitVec.ofNat 8 lo) (BitVec.ofNat 8 hi)])
      else none
end

