-- ==== Sys2Proof/Laws/State.lean ====
section
/-! SUPPORT. One lemma per field per state operation, so that no proof unfolds a record update. -/

namespace Sys2Proof.Machine

open Sys2Proof

@[simp] theorem State.setCount_cfg (s : State) (c : BitVec 5) : (s.setCount c).cfg = s.cfg := rfl
@[simp] theorem State.setCount_frame (s : State) (c : BitVec 5) : (s.setCount c).frame = s.frame := rfl
@[simp] theorem State.setCount_count (s : State) (c : BitVec 5) : (s.setCount c).count = c := rfl
@[simp] theorem State.setCount_rd (s : State) (c : BitVec 5) : (s.setCount c).rd = s.rd := rfl
@[simp] theorem State.setCount_lastErr (s : State) (c : BitVec 5) : (s.setCount c).lastErr = s.lastErr := rfl
@[simp] theorem State.setCount_crcAcc (s : State) (c : BitVec 5) : (s.setCount c).crcAcc = s.crcAcc := rfl
@[simp] theorem State.setCount_crcOk (s : State) (c : BitVec 5) : (s.setCount c).crcOk = s.crcOk := rfl
@[simp] theorem State.setCount_inbox (s : State) (c : BitVec 5) : (s.setCount c).inbox = s.inbox := rfl
@[simp] theorem State.setCount_events (s : State) (c : BitVec 5) : (s.setCount c).events = s.events := rfl

@[simp] theorem State.setLastErr_cfg (s : State) (e : LastErr) : (s.setLastErr e).cfg = s.cfg := rfl
@[simp] theorem State.setLastErr_frame (s : State) (e : LastErr) : (s.setLastErr e).frame = s.frame := rfl
@[simp] theorem State.setLastErr_count (s : State) (e : LastErr) : (s.setLastErr e).count = s.count := rfl
@[simp] theorem State.setLastErr_rd (s : State) (e : LastErr) : (s.setLastErr e).rd = s.rd := rfl
@[simp] theorem State.setLastErr_lastErr (s : State) (e : LastErr) : (s.setLastErr e).lastErr = e := rfl
@[simp] theorem State.setLastErr_crcAcc (s : State) (e : LastErr) : (s.setLastErr e).crcAcc = s.crcAcc := rfl
@[simp] theorem State.setLastErr_crcOk (s : State) (e : LastErr) : (s.setLastErr e).crcOk = s.crcOk := rfl
@[simp] theorem State.setLastErr_inbox (s : State) (e : LastErr) : (s.setLastErr e).inbox = s.inbox := rfl
@[simp] theorem State.setLastErr_events (s : State) (e : LastErr) : (s.setLastErr e).events = s.events := rfl

@[simp] theorem State.setReading_cfg (s : State) (r : Reading) : (s.setReading r).cfg = s.cfg := rfl
@[simp] theorem State.setReading_frame (s : State) (r : Reading) : (s.setReading r).frame = s.frame := rfl
@[simp] theorem State.setReading_count (s : State) (r : Reading) : (s.setReading r).count = s.count := rfl
@[simp] theorem State.setReading_rd (s : State) (r : Reading) : (s.setReading r).rd = r := rfl
@[simp] theorem State.setReading_lastErr (s : State) (r : Reading) : (s.setReading r).lastErr = s.lastErr := rfl
@[simp] theorem State.setReading_crcAcc (s : State) (r : Reading) : (s.setReading r).crcAcc = s.crcAcc := rfl
@[simp] theorem State.setReading_crcOk (s : State) (r : Reading) : (s.setReading r).crcOk = s.crcOk := rfl
@[simp] theorem State.setReading_inbox (s : State) (r : Reading) : (s.setReading r).inbox = s.inbox := rfl
@[simp] theorem State.setReading_events (s : State) (r : Reading) : (s.setReading r).events = s.events := rfl

@[simp] theorem State.setCrcAcc_cfg (s : State) (a : CrcAcc) : (s.setCrcAcc a).cfg = s.cfg := rfl
@[simp] theorem State.setCrcAcc_frame (s : State) (a : CrcAcc) : (s.setCrcAcc a).frame = s.frame := rfl
@[simp] theorem State.setCrcAcc_count (s : State) (a : CrcAcc) : (s.setCrcAcc a).count = s.count := rfl
@[simp] theorem State.setCrcAcc_rd (s : State) (a : CrcAcc) : (s.setCrcAcc a).rd = s.rd := rfl
@[simp] theorem State.setCrcAcc_lastErr (s : State) (a : CrcAcc) : (s.setCrcAcc a).lastErr = s.lastErr := rfl
@[simp] theorem State.setCrcAcc_crcAcc (s : State) (a : CrcAcc) : (s.setCrcAcc a).crcAcc = a := rfl
@[simp] theorem State.setCrcAcc_crcOk (s : State) (a : CrcAcc) : (s.setCrcAcc a).crcOk = s.crcOk := rfl
@[simp] theorem State.setCrcAcc_inbox (s : State) (a : CrcAcc) : (s.setCrcAcc a).inbox = s.inbox := rfl
@[simp] theorem State.setCrcAcc_events (s : State) (a : CrcAcc) : (s.setCrcAcc a).events = s.events := rfl

@[simp] theorem State.setCrcOk_cfg (s : State) (b : Bool) : (s.setCrcOk b).cfg = s.cfg := rfl
@[simp] theorem State.setCrcOk_frame (s : State) (b : Bool) : (s.setCrcOk b).frame = s.frame := rfl
@[simp] theorem State.setCrcOk_count (s : State) (b : Bool) : (s.setCrcOk b).count = s.count := rfl
@[simp] theorem State.setCrcOk_rd (s : State) (b : Bool) : (s.setCrcOk b).rd = s.rd := rfl
@[simp] theorem State.setCrcOk_lastErr (s : State) (b : Bool) : (s.setCrcOk b).lastErr = s.lastErr := rfl
@[simp] theorem State.setCrcOk_crcAcc (s : State) (b : Bool) : (s.setCrcOk b).crcAcc = s.crcAcc := rfl
@[simp] theorem State.setCrcOk_crcOk (s : State) (b : Bool) : (s.setCrcOk b).crcOk = b := rfl
@[simp] theorem State.setCrcOk_inbox (s : State) (b : Bool) : (s.setCrcOk b).inbox = s.inbox := rfl
@[simp] theorem State.setCrcOk_events (s : State) (b : Bool) : (s.setCrcOk b).events = s.events := rfl

@[simp] theorem State.setFrame_cfg (s : State) (m : Memory) : (s.setFrame m).cfg = s.cfg := rfl
@[simp] theorem State.setFrame_frame (s : State) (m : Memory) : (s.setFrame m).frame = m := rfl
@[simp] theorem State.setFrame_count (s : State) (m : Memory) : (s.setFrame m).count = s.count := rfl
@[simp] theorem State.setFrame_rd (s : State) (m : Memory) : (s.setFrame m).rd = s.rd := rfl
@[simp] theorem State.setFrame_lastErr (s : State) (m : Memory) : (s.setFrame m).lastErr = s.lastErr := rfl
@[simp] theorem State.setFrame_crcAcc (s : State) (m : Memory) : (s.setFrame m).crcAcc = s.crcAcc := rfl
@[simp] theorem State.setFrame_crcOk (s : State) (m : Memory) : (s.setFrame m).crcOk = s.crcOk := rfl
@[simp] theorem State.setFrame_inbox (s : State) (m : Memory) : (s.setFrame m).inbox = s.inbox := rfl
@[simp] theorem State.setFrame_events (s : State) (m : Memory) : (s.setFrame m).events = s.events := rfl

@[simp] theorem State.setInbox_cfg (s : State) (l : List Input) : (s.setInbox l).cfg = s.cfg := rfl
@[simp] theorem State.setInbox_frame (s : State) (l : List Input) : (s.setInbox l).frame = s.frame := rfl
@[simp] theorem State.setInbox_count (s : State) (l : List Input) : (s.setInbox l).count = s.count := rfl
@[simp] theorem State.setInbox_rd (s : State) (l : List Input) : (s.setInbox l).rd = s.rd := rfl
@[simp] theorem State.setInbox_lastErr (s : State) (l : List Input) : (s.setInbox l).lastErr = s.lastErr := rfl
@[simp] theorem State.setInbox_crcAcc (s : State) (l : List Input) : (s.setInbox l).crcAcc = s.crcAcc := rfl
@[simp] theorem State.setInbox_crcOk (s : State) (l : List Input) : (s.setInbox l).crcOk = s.crcOk := rfl
@[simp] theorem State.setInbox_inbox (s : State) (l : List Input) : (s.setInbox l).inbox = l := rfl
@[simp] theorem State.setInbox_events (s : State) (l : List Input) : (s.setInbox l).events = s.events := rfl

@[simp] theorem State.emit_cfg (s : State) (e : Event) : (s.emit e).cfg = s.cfg := rfl
@[simp] theorem State.emit_frame (s : State) (e : Event) : (s.emit e).frame = s.frame := rfl
@[simp] theorem State.emit_count (s : State) (e : Event) : (s.emit e).count = s.count := rfl
@[simp] theorem State.emit_rd (s : State) (e : Event) : (s.emit e).rd = s.rd := rfl
@[simp] theorem State.emit_lastErr (s : State) (e : Event) : (s.emit e).lastErr = s.lastErr := rfl
@[simp] theorem State.emit_crcAcc (s : State) (e : Event) : (s.emit e).crcAcc = s.crcAcc := rfl
@[simp] theorem State.emit_crcOk (s : State) (e : Event) : (s.emit e).crcOk = s.crcOk := rfl
@[simp] theorem State.emit_inbox (s : State) (e : Event) : (s.emit e).inbox = s.inbox := rfl
@[simp] theorem State.emit_events (s : State) (e : Event) : (s.emit e).events = s.events ++ [e] := rfl

@[simp] theorem State.clearDetections_cfg (s : State) : s.clearDetections.cfg = s.cfg := rfl
@[simp] theorem State.clearDetections_frame (s : State) : s.clearDetections.frame = s.frame := rfl
@[simp] theorem State.clearDetections_count (s : State) : s.clearDetections.count = s.count := rfl
@[simp] theorem State.clearDetections_rd (s : State) : s.clearDetections.rd = { s.rd with ndet := 0, det := List.replicate s.cfg.maxDet.val Detection.zero } := rfl
@[simp] theorem State.clearDetections_lastErr (s : State) : s.clearDetections.lastErr = s.lastErr := rfl
@[simp] theorem State.clearDetections_crcAcc (s : State) : s.clearDetections.crcAcc = s.crcAcc := rfl
@[simp] theorem State.clearDetections_crcOk (s : State) : s.clearDetections.crcOk = s.crcOk := rfl
@[simp] theorem State.clearDetections_inbox (s : State) : s.clearDetections.inbox = s.inbox := rfl
@[simp] theorem State.clearDetections_events (s : State) : s.clearDetections.events = s.events := rfl

@[simp] theorem rst_cfg (s : State) : (rst s).cfg = s.cfg := rfl
@[simp] theorem rst_frame (s : State) : (rst s).frame = [] := rfl
@[simp] theorem rst_count (s : State) : (rst s).count = 0 := rfl
@[simp] theorem rst_rd (s : State) : (rst s).rd = (State.resetWith s.cfg).rd := rfl
@[simp] theorem rst_lastErr (s : State) : (rst s).lastErr = .none := rfl
@[simp] theorem rst_crcAcc (s : State) : (rst s).crcAcc = { lo := 0xFF, hi := 0xFF } := rfl
@[simp] theorem rst_crcOk (s : State) : (rst s).crcOk = false := rfl
@[simp] theorem rst_inbox (s : State) : (rst s).inbox = s.inbox := rfl
@[simp] theorem rst_events (s : State) : (rst s).events = s.events := rfl

@[simp] theorem State.resetWith_cfg (c : Config) : (State.resetWith c).cfg = c := rfl
@[simp] theorem State.resetWith_frame (c : Config) : (State.resetWith c).frame = [] := rfl
@[simp] theorem State.resetWith_count (c : Config) : (State.resetWith c).count = 0 := rfl
@[simp] theorem State.resetWith_rd (c : Config) : (State.resetWith c).rd = { ts := 0, temp := 0, ndet := 0, det := List.replicate c.maxDet.val Detection.zero } := rfl
@[simp] theorem State.resetWith_lastErr (c : Config) : (State.resetWith c).lastErr = .none := rfl
@[simp] theorem State.resetWith_crcAcc (c : Config) : (State.resetWith c).crcAcc = { lo := 0xFF, hi := 0xFF } := rfl
@[simp] theorem State.resetWith_crcOk (c : Config) : (State.resetWith c).crcOk = false := rfl
@[simp] theorem State.resetWith_inbox (c : Config) : (State.resetWith c).inbox = [] := rfl
@[simp] theorem State.resetWith_events (c : Config) : (State.resetWith c).events = [] := rfl

/-- Two states with the same fields are one. -/
theorem State.eq_of_fields {s t : State} (h1 : s.cfg = t.cfg) (h2 : s.frame = t.frame) (h3 : s.count = t.count)
    (h4 : s.rd = t.rd) (h5 : s.lastErr = t.lastErr) (h6 : s.crcAcc = t.crcAcc) (h7 : s.crcOk = t.crcOk)
    (h8 : s.inbox = t.inbox) (h9 : s.events = t.events) : s = t := by
  cases s
  cases t
  simp_all

end Sys2Proof.Machine
end

