-- ==== Sys2Proof/Laws/Memory.lean ====
section
/-! SUPPORT. The frame buffer: reading after writing, the canonical form, and what the faulting accesses answer. -/

namespace Sys2Proof.Machine

open Sys2Proof

@[simp] theorem Memory.read?_nil (a : Nat) : Memory.read? [] a = none := rfl

theorem Memory.read?_cons (i : Nat) (b : Byte) (m : Memory) (a : Nat) :
    Memory.read? ((i, b) :: m) a = if i = a then some b else Memory.read? m a := rfl

/-- A byte written is the byte read there. -/
@[simp] theorem Memory.read?_write_same (m : Memory) (a : Nat) (v : Byte) : (m.write a v).read? a = some v := by
  induction m with
  | nil => simp [Memory.write, Memory.read?]
  | cons p m ih =>
    obtain ⟨i, b⟩ := p
    unfold Memory.write
    split
    · simp [Memory.read?_cons]
    · split
      · simp [Memory.read?_cons]
      · next h => simp [Memory.read?_cons, ih, Ne.symm h]

/-- A write leaves every other byte alone. -/
theorem Memory.read?_write_other (m : Memory) {a a' : Nat} (v : Byte) (h : a' ≠ a) :
    (m.write a v).read? a' = m.read? a' := by
  induction m with
  | nil => simp [Memory.write, Memory.read?, Memory.unlisted, Ne.symm h]
  | cons p m ih =>
    obtain ⟨i, b⟩ := p
    unfold Memory.write
    split
    · simp [Memory.read?_cons, Ne.symm h]
    · split
      · next h' => subst h'; simp [Memory.read?_cons, Ne.symm h]
      · simp [Memory.read?_cons, ih]

/-- A write at or above a bound keeps a list that rises from that bound. -/
theorem Memory.risesFrom_write (m : Memory) (lo a : Nat) (v : Byte) (hm : Memory.risesFrom lo m = true) (ha : a < cap)
    (hlo : lo ≤ a) : Memory.risesFrom lo (m.write a v) = true := by
  induction m generalizing lo with
  | nil => simp_all [Memory.write, Memory.risesFrom]
  | cons p m ih =>
    obtain ⟨i, b⟩ := p
    simp only [Memory.risesFrom, Bool.and_eq_true, decide_eq_true_eq] at hm
    obtain ⟨⟨h1, h2⟩, h3⟩ := hm
    unfold Memory.write
    split
    · simp only [Memory.risesFrom, Bool.and_eq_true, decide_eq_true_eq]
      exact ⟨⟨hlo, ha⟩, ⟨by omega, h2⟩, h3⟩
    · split
      · next h => subst h; simp_all [Memory.risesFrom]
      · simp only [Memory.risesFrom, Bool.and_eq_true, decide_eq_true_eq]
        exact ⟨⟨h1, h2⟩, ih (i + 1) h3 (by omega)⟩

/-- Every write inside FRAME keeps the canonical form; there is no other operation on it but the reset to the empty list. -/
theorem Memory.wf_write (m : Memory) (a : Nat) (v : Byte) (hm : m.wf = true) (ha : a < cap) : (m.write a v).wf = true :=
  Memory.risesFrom_write m 0 a v hm ha (Nat.zero_le a)

/-- The empty frame buffer, the one of reset, is canonical. -/
theorem Memory.wf_nil : Memory.wf [] = true := rfl

/-- A written byte is read. -/
theorem readFrame_written {s : State} {i : Nat} {b : Byte} (hi : i < cap) (h : s.frame.read? i = some b) :
    readFrame s i = .ok b := by
  simp [readFrame, hi, h]

/-- An unwritten byte faults under its name. -/
theorem readFrame_unwritten {s : State} {i : Nat} (hi : i < cap) (h : s.frame.read? i = none) :
    readFrame s i = .error (.unwrittenFrameByte i) := by
  simp [readFrame, hi, h]

/-- Everything a read of FRAME can answer inside the buffer. -/
theorem readFrame_cases (s : State) {i : Nat} (hi : i < cap) :
    (∃ b, s.frame.read? i = some b ∧ readFrame s i = .ok b) ∨
      (s.frame.read? i = none ∧ readFrame s i = .error (.unwrittenFrameByte i)) := by
  cases h : s.frame.read? i with
  | none => exact .inr ⟨rfl, readFrame_unwritten hi h⟩
  | some b => exact .inl ⟨b, rfl, readFrame_written hi h⟩

/-- A write inside FRAME never fails. -/
theorem writeFrame_inside (s : State) {i : Nat} (b : Byte) (hi : i < cap) :
    writeFrame s i b = .ok (s.setFrame (s.frame.write i b)) := by
  simp [writeFrame, hi]

end Sys2Proof.Machine
end

