-- ==== Sys2Proof/Laws/Ops.lean ====
section
/-! SUPPORT. What the shared operations do: the end of a cycle, taking an input, and the reads of FRAME. -/

namespace Sys2Proof.Machine

open Sys2Proof

@[simp] theorem recordCycle_lastErr (s : State) (r : CycleResult) : (recordCycle s r).lastErr = lastErrOf r := by
  cases r <;> rfl

@[simp] theorem recordCycle_events (s : State) (r : CycleResult) : (recordCycle s r).events = s.events ++ [.cycle r] := by
  cases r <;> rfl

@[simp] theorem recordCycle_cfg (s : State) (r : CycleResult) : (recordCycle s r).cfg = s.cfg := by cases r <;> rfl

@[simp] theorem recordCycle_frame (s : State) (r : CycleResult) : (recordCycle s r).frame = s.frame := by cases r <;> rfl

@[simp] theorem recordCycle_rd (s : State) (r : CycleResult) : (recordCycle s r).rd = s.rd := by cases r <;> rfl

@[simp] theorem recordCycle_crcAcc (s : State) (r : CycleResult) : (recordCycle s r).crcAcc = s.crcAcc := by cases r <;> rfl

@[simp] theorem recordCycle_crcOk (s : State) (r : CycleResult) : (recordCycle s r).crcOk = s.crcOk := by cases r <;> rfl

@[simp] theorem recordCycle_inbox (s : State) (r : CycleResult) : (recordCycle s r).inbox = s.inbox := by cases r <;> rfl

@[simp] theorem cycleEnd_cfg (s : State) (r : CycleResult) : (cycleEnd s r).cfg = s.cfg := by simp [cycleEnd]

@[simp] theorem cycleEnd_frame (s : State) (r : CycleResult) : (cycleEnd s r).frame = s.frame := by simp [cycleEnd]

@[simp] theorem cycleEnd_count (s : State) (r : CycleResult) : (cycleEnd s r).count = 0 := rfl

@[simp] theorem cycleEnd_rd (s : State) (r : CycleResult) : (cycleEnd s r).rd =
    { s.rd with ndet := 0, det := List.replicate s.cfg.maxDet.val Detection.zero } := by simp [cycleEnd]

@[simp] theorem cycleEnd_lastErr (s : State) (r : CycleResult) : (cycleEnd s r).lastErr = lastErrOf r := by simp [cycleEnd]

@[simp] theorem cycleEnd_crcAcc (s : State) (r : CycleResult) : (cycleEnd s r).crcAcc = s.crcAcc := by simp [cycleEnd]

@[simp] theorem cycleEnd_crcOk (s : State) (r : CycleResult) : (cycleEnd s r).crcOk = s.crcOk := by simp [cycleEnd]

@[simp] theorem cycleEnd_inbox (s : State) (r : CycleResult) : (cycleEnd s r).inbox = s.inbox := by simp [cycleEnd]

@[simp] theorem cycleEnd_events (s : State) (r : CycleResult) :
    (cycleEnd s r).events = s.events ++ [.cycle r, .reqNext] := by simp [cycleEnd]

@[simp] theorem outcomeOf_ok (t : State) : outcomeOf (.ok t) = .next t := rfl

@[simp] theorem outcomeOf_error (f : Fault) : outcomeOf (.error f) = .fault f := rfl

theorem takeInput_nil {s : State} (h : s.inbox = []) : takeInput s = none := by simp [takeInput, h]

theorem takeInput_cons {s : State} {x : Input} {rest : List Input} (h : s.inbox = x :: rest) :
    takeInput s = some (x, s.setInbox rest) := by simp [takeInput, h]

/-- A byte held by a frame given as a list is the byte read. -/
theorem readFrame_holds {s : State} {bs : List Byte} (hlen : bs.length = cap) (h : FrameHolds s bs) {i : Nat} (hi : i < cap) :
    readFrame s i = .ok (byteAt bs i) := by
  have hi' : i < bs.length := by omega
  rw [readFrame_written hi (h i hi')]
  simp [byteAt, List.getD, hi']

/-- A run of bytes held by a frame given as a list. -/
theorem readFrameBytes_holds {s : State} {bs : List Byte} (hlen : bs.length = cap) (h : FrameHolds s bs) (n : Nat) :
    ∀ i, i + n ≤ cap → readFrameBytes s i n = .ok ((bs.drop i).take n) := by
  induction n with
  | zero => intro i _; simp [readFrameBytes]
  | succ n ih =>
    intro i hi
    have hi' : i < bs.length := by omega
    have hd : bs.drop i = byteAt bs i :: bs.drop (i + 1) := by
      rw [List.drop_eq_getElem_cons hi']
      simp [byteAt, List.getD, hi']
    rw [readFrameBytes, readFrame_holds hlen h (by omega), ih (i + 1) (by omega), hd]
    rfl

/-- Reads of FRAME see nothing of the state but FRAME. -/
theorem readFrame_congr {s t : State} {i : Nat} (h : s.frame.read? i = t.frame.read? i) : readFrame s i = readFrame t i := by
  simp [readFrame, h]

theorem readFrameBytes_congr {s t : State} (n : Nat) :
    ∀ i, (∀ j, i ≤ j → j < i + n → s.frame.read? j = t.frame.read? j) → readFrameBytes s i n = readFrameBytes t i n := by
  induction n with
  | zero => intros; rfl
  | succ n ih =>
    intro i h
    rw [readFrameBytes, readFrameBytes, readFrame_congr (h i (by omega) (by omega)),
      ih (i + 1) (fun j h1 h2 => h j (by omega) (by omega))]

/-- FRAME fully written is FRAME holding some 25 bytes. -/
theorem frameWritten_holds {s : State} (h : FrameWritten s) : ∃ bs, bs.length = cap ∧ FrameHolds s bs := by
  refine ⟨(List.range cap).map fun i => (s.frame.read? i).getD 0, by simp, ?_⟩
  intro i hi
  simp only [List.length_map, List.length_range] at hi
  obtain ⟨b, hb⟩ := Option.isSome_iff_exists.mp (h i hi)
  simp [hb]

end Sys2Proof.Machine
end

