-- ==== Sys2Proof/Laws/Decoder.lean ====
section
/-! SUPPORT. What the parts of DECODE answer on a fully written frame, and the faults they cannot raise. -/

namespace Sys2Proof.Machine

open Sys2Proof

theorem except_ok_bind {α β : Type} (a : α) (f : α → Except Fault β) : (Except.ok a >>= f) = f a := rfl

theorem except_error_bind {α β : Type} (e : Fault) (f : α → Except Fault β) : (Except.error e >>= f) = .error e := rfl

theorem except_pure {α : Type} (a : α) : (pure a : Except Fault α) = .ok a := rfl

theorem be16_holds {s : State} {bs : List Byte} (hlen : bs.length = cap) (h : FrameHolds s bs) {i : Nat} (hi : i + 1 < cap) :
    be16 s i = .ok (byteAt bs i ++ byteAt bs (i + 1)) := by
  simp only [be16, readFrame_holds hlen h (Nat.lt_of_succ_lt hi), readFrame_holds hlen h hi, except_ok_bind]
  rfl

theorem readTimestamp_holds {s : State} {bs : List Byte} (hlen : bs.length = cap) (h : FrameHolds s bs) :
    readTimestamp s = .ok (interleave (byteAt bs 3) (byteAt bs 4) (byteAt bs 5) (byteAt bs 6)) := by
  simp only [readTimestamp, readFrame_holds hlen h (show 3 < cap by decide), readFrame_holds hlen h (show 4 < cap by decide),
    readFrame_holds hlen h (show 5 < cap by decide), readFrame_holds hlen h (show 6 < cap by decide), except_ok_bind]
  rfl

theorem readTemperature_holds {s : State} {bs : List Byte} (hlen : bs.length = cap) (h : FrameHolds s bs) :
    readTemperature s = .ok (byteAt bs 7 ++ byteAt bs 8) := be16_holds hlen h (by decide)

theorem readDetection_holds {s : State} {bs : List Byte} (hlen : bs.length = cap) (h : FrameHolds s bs) {k : Nat} (hk : k < 3) :
    readDetection s (byteAt bs 10).toNat k = .ok (detectionOf bs k) := by
  unfold readDetection detectionOf
  split
  · simp only [recordAt, be16_holds hlen h (show 11 + 4 * k + 1 < cap by simp only [cap]; omega),
      be16_holds hlen h (show 11 + 4 * k + 2 + 1 < cap by simp only [cap]; omega), except_ok_bind, except_pure]
    rw [show 11 + 4 * k + 1 = 12 + 4 * k by omega, show 11 + 4 * k + 2 = 13 + 4 * k by omega,
      show 13 + 4 * k + 1 = 14 + 4 * k by omega]
  · rfl

theorem readDetectionsFrom_holds {s : State} {bs : List Byte} (hlen : bs.length = cap) (h : FrameHolds s bs) (left : Nat) :
    ∀ k, k + left ≤ 3 →
      readDetectionsFrom s (byteAt bs 10).toNat k left = .ok ((List.range' k left).map (detectionOf bs)) := by
  induction left with
  | zero => intro k _; rfl
  | succ left ih =>
    intro k hk
    rw [readDetectionsFrom, readDetection_holds hlen h (by omega), ih (k + 1) (by omega)]
    rfl

theorem readDetections_holds {s : State} {bs : List Byte} (hlen : bs.length = cap) (h : FrameHolds s bs) :
    readDetections s (byteAt bs 10).toNat = .ok ((List.range s.cfg.maxDet.val).map (detectionOf bs)) := by
  rw [readDetections, readDetectionsFrom_holds hlen h _ 0 (by have := s.cfg.maxDet.isLt; omega), List.range_eq_range']

/-- The timestamp's interleaving as one concatenation, byte 5 first (R37). -/
theorem interleave_eq_append (b3 b4 b5 b6 : Byte) : interleave b3 b4 b5 b6 = b5 ++ b6 ++ b3 ++ b4 := by
  have h := @BitVec.setWidth_append_append_append_eq_shiftLeft_setWidth_or 8 8 8 8 32 b5 b6 b3 b4
  simpa [interleave] using h.symm

theorem addressed_holds {s : State} {bs : List Byte} (hlen : bs.length = cap) (h : FrameHolds s bs) :
    addressed s = .ok (bytesAddressed s.cfg bs) := by
  simp only [addressed, readFrame_holds hlen h (show 0 < cap by decide), readFrame_holds hlen h (show 1 < cap by decide),
    except_ok_bind, except_pure, bytesAddressed]
  split <;> simp_all

theorem checksumOk_holds {s : State} {bs : List Byte} (hlen : bs.length = cap) (h : FrameHolds s bs) :
    checksumOk s 23 = .ok (bytesVerified bs) := by
  simp only [checksumOk, readFrameBytes_holds hlen h 23 0 (by decide), readFrame_holds hlen h (show 23 < cap by decide),
    readFrame_holds hlen h (show 23 + 1 < cap by decide), except_ok_bind, except_pure, bytesVerified, List.drop_zero]

/-- A result that is no access to an index FRAME does not have. -/
def NoIndexFault {α : Type} (r : Except Fault α) : Prop := ∀ i, r ≠ .error (.noFrameIndex i)

theorem NoIndexFault.ok {α : Type} (a : α) : NoIndexFault (.ok a) := fun _ h => by cases h

theorem NoIndexFault.bind {α β : Type} {r : Except Fault α} {f : α → Except Fault β} (hr : NoIndexFault r)
    (hf : ∀ a, NoIndexFault (f a)) : NoIndexFault (r >>= f) := by
  cases r with
  | ok a => exact hf a
  | error e =>
    intro i h
    exact hr i (by cases h; rfl)

theorem NoIndexFault.readFrame (s : State) {i : Nat} (hi : i < cap) : NoIndexFault (readFrame s i) := by
  intro j h
  obtain ⟨b, -, hb⟩ | ⟨-, hb⟩ := readFrame_cases s hi
  · rw [hb] at h; cases h
  · rw [hb] at h; cases h

theorem NoIndexFault.readFrameBytes (s : State) (n : Nat) : ∀ i, i + n ≤ cap → NoIndexFault (readFrameBytes s i n) := by
  induction n with
  | zero => intro i _; exact .ok _
  | succ n ih =>
    intro i hi
    exact (NoIndexFault.readFrame s (by omega)).bind fun _ => (ih (i + 1) (by omega)).bind fun _ => .ok _

theorem NoIndexFault.be16 (s : State) {i : Nat} (hi : i + 1 < cap) : NoIndexFault (be16 s i) :=
  (NoIndexFault.readFrame s (by omega)).bind fun _ => (NoIndexFault.readFrame s hi).bind fun _ => .ok _

theorem NoIndexFault.readDetection (s : State) (n : Nat) {k : Nat} (hk : k < 3) : NoIndexFault (readDetection s n k) := by
  unfold Machine.readDetection
  split
  · exact (NoIndexFault.be16 s (by simp only [recordAt, cap]; omega)).bind fun _ =>
      (NoIndexFault.be16 s (by simp only [recordAt, cap]; omega)).bind fun _ => .ok _
  · exact .ok _

theorem NoIndexFault.readDetectionsFrom (s : State) (n left : Nat) :
    ∀ k, k + left ≤ 3 → NoIndexFault (readDetectionsFrom s n k left) := by
  induction left with
  | zero => intro k _; exact .ok _
  | succ left ih =>
    intro k hk
    exact (NoIndexFault.readDetection s n (by omega)).bind fun _ => (ih (k + 1) (by omega)).bind fun _ => .ok _

theorem NoIndexFault.extract (s : State) (n : Byte) : NoIndexFault (extract s n) := by
  have hf : ∀ {i}, i < cap → NoIndexFault (Machine.readFrame s i) := NoIndexFault.readFrame s
  refine NoIndexFault.bind ?_ fun _ => NoIndexFault.bind ?_ fun _ => NoIndexFault.bind ?_ fun _ => .ok _
  · exact (hf (by decide)).bind fun _ => (hf (by decide)).bind fun _ => (hf (by decide)).bind fun _ =>
      (hf (by decide)).bind fun _ => .ok _
  · exact NoIndexFault.be16 s (by decide)
  · exact NoIndexFault.readDetectionsFrom s _ _ 0 (by have := s.cfg.maxDet.isLt; omega)

/-- DECODE forms no index outside FRAME, at any length and in any state (R34). -/
theorem decodeFrame_noIndexFault (s : State) (len : Nat) : NoIndexFault (decodeFrame s len) := by
  have hf : ∀ {i}, i < cap → NoIndexFault (Machine.readFrame s i) := NoIndexFault.readFrame s
  unfold decodeFrame
  split
  · exact .ok _
  · next hlen =>
    have hlen : len = 25 := not_not.mp hlen
    subst hlen
    refine NoIndexFault.bind ?_ fun a => ?_
    · refine (hf (by decide)).bind fun _ => ?_
      split
      · exact (hf (by decide)).bind fun _ => .ok _
      · exact .ok _
    · split
      · refine NoIndexFault.bind ?_ fun c => ?_
        · exact (NoIndexFault.readFrameBytes s _ 0 (by decide)).bind fun _ => (hf (by decide)).bind fun _ =>
            (hf (by decide)).bind fun _ => .ok _
        · split
          · refine (hf (by decide)).bind fun n => ?_
            split
            · exact .ok _
            · exact (NoIndexFault.extract s n).bind fun _ => .ok _
          · exact .ok _
      · exact .ok _

/-- DECODE reads the configuration and FRAME, and nothing else of the state (R84, R101). -/
theorem decodeFrame_congr {s t : State} (hc : s.cfg = t.cfg) (hf : s.frame = t.frame) (len : Nat) :
    decodeFrame s len = decodeFrame t len := by
  have h1 : ∀ i, readFrame s i = readFrame t i := fun i => readFrame_congr (by rw [hf])
  have h2 : ∀ n i, readFrameBytes s i n = readFrameBytes t i n := fun n i => readFrameBytes_congr n i (fun _ _ _ => by rw [hf])
  have h3 : ∀ i, be16 s i = be16 t i := fun i => by simp only [be16, h1]
  have h4 : ∀ n k, readDetection s n k = readDetection t n k := fun n k => by simp only [readDetection, h3]
  have h5 : ∀ n left k, readDetectionsFrom s n k left = readDetectionsFrom t n k left := by
    intro n left
    induction left with
    | zero => intro k; rfl
    | succ left ih => intro k; simp only [readDetectionsFrom, h4, ih]
  simp only [decodeFrame, addressed, checksumOk, countAndExtract, extract, readTimestamp, readTemperature, readDetections, h1, h2,
    h3, h5, hc]

end Sys2Proof.Machine
end

