-- ==== Sys2Proof/Laws/Assembler.lean ====
section
/-! SUPPORT. Everything an RXBYTE can do (R74): the guard, the append, and the append that fills the frame. -/

namespace Sys2Proof.Machine

open Sys2Proof

/-- The state after the append `FRAME[COUNT] <- b; COUNT <- COUNT + 1` (R75). -/
def stored (s : State) (b : Byte) : State := (s.setFrame (s.frame.write s.count.toNat b)).setCount (s.count + 1)

@[simp] theorem stored_cfg (s : State) (b : Byte) : (stored s b).cfg = s.cfg := rfl

@[simp] theorem stored_frame (s : State) (b : Byte) : (stored s b).frame = s.frame.write s.count.toNat b := rfl

@[simp] theorem stored_count (s : State) (b : Byte) : (stored s b).count = s.count + 1 := rfl

@[simp] theorem stored_rd (s : State) (b : Byte) : (stored s b).rd = s.rd := rfl

@[simp] theorem stored_lastErr (s : State) (b : Byte) : (stored s b).lastErr = s.lastErr := rfl

@[simp] theorem stored_crcAcc (s : State) (b : Byte) : (stored s b).crcAcc = s.crcAcc := rfl

@[simp] theorem stored_crcOk (s : State) (b : Byte) : (stored s b).crcOk = s.crcOk := rfl

@[simp] theorem stored_inbox (s : State) (b : Byte) : (stored s b).inbox = s.inbox := rfl

@[simp] theorem stored_events (s : State) (b : Byte) : (stored s b).events = s.events := rfl

/-- The increment does not wrap below `CAP` (R75). -/
theorem count_succ_toNat {s : State} (h : s.count.toNat < cap) : (s.count + 1).toNat = s.count.toNat + 1 := by
  simp only [cap] at h
  rw [BitVec.toNat_add]
  simp only [BitVec.ofNat_eq_ofNat, BitVec.toNat_ofNat]
  omega

theorem append_inside {s : State} (b : Byte) (h : s.count.toNat < cap) : append s b = .ok (stored s b) := by
  rw [append, writeFrame_inside s b h]
  rfl

/-- An RXBYTE with room to spare only stores its byte (R76). -/
theorem execRxbyte_store {s : State} (b : Byte) (h : s.count.toNat < 24) : execRxbyte b s = .next (stored s b) := by
  have hc : s.count.toNat < cap := by simp only [cap]; omega
  have h' : (s.count + 1).toNat ≠ cap := by rw [count_succ_toNat hc]; simp only [cap]; omega
  rw [execRxbyte, if_neg (by omega), appendAndComplete, append_inside b hc, except_ok_bind, stored_count, if_neg h']
  rfl

/-- The overflow guard (R77). -/
theorem execRxbyte_overflow {s : State} (b : Byte) (h : cap ≤ s.count.toNat) :
    execRxbyte b s = .next (cycleEnd s (.err .overflow)) := by
  rw [execRxbyte, if_pos h]

/-- The RXBYTE that fills the frame (R78): DECODE decides the step. -/
theorem execRxbyte_fill {s : State} (b : Byte) (h : s.count.toNat = 24) :
    execRxbyte b s =
      match decodeFrame (stored s b) 25 with
      | .ok r => .next (cycleEnd (writeDecoded (stored s b) r) r)
      | .error f => .fault f := by
  have hc : s.count.toNat < cap := by simp only [cap]; omega
  have h' : (s.count + 1).toNat = cap := by rw [count_succ_toNat hc]; simp only [cap]; omega
  rw [execRxbyte, if_neg (by omega), appendAndComplete, append_inside b hc, except_ok_bind, stored_count, if_pos h', completeFrame,
    stored_count, h']
  cases decodeFrame (stored s b) 25 <;> rfl

/-- Everything an RXBYTE can answer, in any state. -/
theorem execRxbyte_cases (b : Byte) (s : State) :
    (s.count.toNat < 24 ∧ execRxbyte b s = .next (stored s b)) ∨
      (s.count.toNat = 24 ∧ ∃ r, decodeFrame (stored s b) 25 = .ok r ∧
        execRxbyte b s = .next (cycleEnd (writeDecoded (stored s b) r) r)) ∨
      (s.count.toNat = 24 ∧ ∃ f, decodeFrame (stored s b) 25 = .error f ∧ execRxbyte b s = .fault f) ∨
      (25 ≤ s.count.toNat ∧ execRxbyte b s = .next (cycleEnd s (.err .overflow))) := by
  by_cases h1 : s.count.toNat < 24
  · exact .inl ⟨h1, execRxbyte_store b h1⟩
  · by_cases h2 : s.count.toNat = 24
    · have h := execRxbyte_fill b h2
      cases hd : decodeFrame (stored s b) 25 with
      | ok r => rw [hd] at h; exact .inr (.inl ⟨h2, r, rfl, h⟩)
      | error f => rw [hd] at h; exact .inr (.inr (.inl ⟨h2, f, rfl, h⟩))
    · have h3 : 25 ≤ s.count.toNat := by omega
      exact .inr (.inr (.inr ⟨h3, execRxbyte_overflow b h3⟩))

@[simp] theorem writeDecoded_cfg (s : State) (r : CycleResult) : (writeDecoded s r).cfg = s.cfg := by cases r <;> rfl

@[simp] theorem writeDecoded_frame (s : State) (r : CycleResult) : (writeDecoded s r).frame = s.frame := by cases r <;> rfl

@[simp] theorem writeDecoded_crcAcc (s : State) (r : CycleResult) : (writeDecoded s r).crcAcc = s.crcAcc := by cases r <;> rfl

@[simp] theorem writeDecoded_crcOk (s : State) (r : CycleResult) : (writeDecoded s r).crcOk = s.crcOk := by cases r <;> rfl

@[simp] theorem writeDecoded_inbox (s : State) (r : CycleResult) : (writeDecoded s r).inbox = s.inbox := by cases r <;> rfl

@[simp] theorem writeDecoded_events (s : State) (r : CycleResult) : (writeDecoded s r).events = s.events := by cases r <;> rfl

/-- Every byte written before the last, and the byte stored: the whole frame is written. -/
theorem stored_frameWritten {s : State} (b : Byte) (hc : s.count.toNat = 24)
    (h : ∀ i < s.count.toNat, (s.frame.read? i).isSome = true) : FrameWritten (stored s b) := by
  intro i hi
  rw [stored_frame]
  by_cases hic : i = s.count.toNat
  · subst hic; simp
  · rw [Memory.read?_write_other _ _ hic]
    exact h i (by simp only [cap] at hi; omega)

end Sys2Proof.Machine
end

