-- ==== Sys2Proof/Laws/Checksum.lean ====
section
/-! SUPPORT. The checksum engine's step and runs. -/

namespace Sys2Proof.Machine

open Sys2Proof

@[simp] theorem crcRun_nil (a : CrcAcc) : crcRun a [] = a := rfl

@[simp] theorem crcRun_cons (a : CrcAcc) (b : Byte) (msg : List Byte) : crcRun a (b :: msg) = crcRun (crcStep a b) msg := rfl

theorem crcRun_append (a : CrcAcc) (m m' : List Byte) : crcRun a (m ++ m') = crcRun (crcRun a m) m' :=
  List.foldl_append

theorem compute_eq (msg : List Byte) : compute msg = crcRun { lo := 0xFF, hi := 0xFF } msg := rfl

theorem crcStep_eq (a : CrcAcc) (b : Byte) :
    crcStep a b = { lo := a.hi ^^^ readTLo (a.lo ^^^ b), hi := readTHi (a.lo ^^^ b) } := rfl

set_option maxRecDepth 20000 in
/-- No two indices hold the same byte in `T_HI`, which makes the step reversible. -/
theorem readTHi_injective : Function.Injective readTHi := by
  have h : ∀ i : Fin 256, (tHi.map BitVec.toNat).idxOf (readTHi (BitVec.ofFin i)).toNat = i.val := by decide +kernel
  intro a b hab
  have ha := h a.toFin
  have hb := h b.toFin
  have e : ∀ x : Byte, BitVec.ofFin x.toFin = x := fun _ => rfl
  rw [e] at ha hb
  rw [hab] at ha
  exact BitVec.eq_of_toNat_eq (ha.symm.trans hb)

/-- The step is reversible in the accumulator. -/
theorem crcStep_injective (b : Byte) : Function.Injective (fun a => crcStep a b) := by
  intro a a' h
  simp only [crcStep_eq, CrcAcc.mk.injEq] at h
  have hlo : a.lo = a'.lo := (BitVec.xor_left_inj _).mp (readTHi_injective h.2)
  rw [hlo] at h
  have hhi : a.hi = a'.hi := (BitVec.xor_left_inj _).mp h.1
  cases a
  cases a'
  simp_all

end Sys2Proof.Machine
end

