-- ==== Sys2Proof/Laws/Encoding.lean ====
section
/-! SUPPORT. Words as four bytes: format `C` both ways, masking byte by byte, and the decoder read off the fields. -/

namespace Sys2Proof

/-- A word is the layout of its own fields. -/
theorem wordOf_cmdWordOf (w : Word) : wordOf (cmdWordOf w) = w := by
  have h1 : w.extractLsb' 24 8 ++ w.extractLsb' 16 8 = (w.extractLsb' 16 16 : BitVec (8 + 8)) :=
    BitVec.extractLsb'_append_extractLsb'_eq_extractLsb' rfl
  have h2 : (w.extractLsb' 16 16 : BitVec (8 + 8)) ++ w.extractLsb' 8 8 = (w.extractLsb' 8 24 : BitVec (8 + 8 + 8)) :=
    BitVec.extractLsb'_append_extractLsb'_eq_extractLsb' rfl
  have h3 : (w.extractLsb' 8 24 : BitVec (8 + 8 + 8)) ++ w.extractLsb' 0 8 = (w.extractLsb' 0 32 : BitVec (8 + 8 + 8 + 8)) :=
    BitVec.extractLsb'_append_extractLsb'_eq_extractLsb' rfl
  show (w.extractLsb' 24 8 ++ w.extractLsb' 16 8 ++ w.extractLsb' 8 8 ++ w.extractLsb' 0 8 : BitVec (8 + 8 + 8 + 8)) = w
  rw [h1, h2, h3]
  exact BitVec.extractLsb'_eq_self

/-- Two values followed by a byte are equal when their parts are. -/
theorem append_byte_inj {n : Nat} (x x' : BitVec n) (y y' : Byte) : x ++ y = x' ++ y' ↔ x = x' ∧ y = y' := by
  constructor
  · intro h
    have h1 := congrArg (BitVec.extractLsb' 8 n) h
    have h2 := congrArg (BitVec.extractLsb' 0 8) h
    rw [BitVec.extractLsb'_append_eq_left, BitVec.extractLsb'_append_eq_left] at h1
    rw [BitVec.extractLsb'_append_eq_right, BitVec.extractLsb'_append_eq_right] at h2
    exact ⟨h1, h2⟩
  · rintro ⟨rfl, rfl⟩
    rfl

/-- Words are equal when their fields are. -/
theorem wordOf_inj {c c' : CmdWord} : wordOf c = wordOf c' ↔ c = c' := by
  obtain ⟨o, r, p, q⟩ := c
  obtain ⟨o', r', p', q'⟩ := c'
  show (o ++ r ++ p ++ q : BitVec (8 + 8 + 8 + 8)) = o' ++ r' ++ p' ++ q' ↔ _
  rw [append_byte_inj, append_byte_inj, append_byte_inj, CmdWord.mk.injEq]
  tauto

/-- The fields of a layout are the fields laid out. -/
@[simp] theorem cmdWordOf_wordOf (c : CmdWord) : cmdWordOf (wordOf c) = c := wordOf_inj.mp (wordOf_cmdWordOf _)

/-- Masking a word masks each field. -/
theorem wordOf_and (c m : CmdWord) :
    wordOf c &&& wordOf m =
      wordOf { op := c.op &&& m.op, rsv := c.rsv &&& m.rsv, b1 := c.b1 &&& m.b1, b0 := c.b0 &&& m.b0 } := by
  show (c.op ++ c.rsv ++ c.b1 ++ c.b0 : BitVec (8 + 8 + 8 + 8)) &&& (m.op ++ m.rsv ++ m.b1 ++ m.b0) = _
  simp only [BitVec.and_append]
  rfl

/-- An operation code outside the map names no operation (R53). -/
theorem ofCode?_none {a : Byte} (h1 : a ≠ 0x01) (h2 : a ≠ 0x02) (h3 : a ≠ 0x10) (h4 : a ≠ 0x11) (h5 : a ≠ 0x12) :
    Opcode.ofCode? a = none := by
  simp only [Opcode.ofCode?, List.find?_eq_none, Opcode.all, List.mem_cons, List.not_mem_nil, or_false, beq_iff_eq]
  rintro x (rfl | rfl | rfl | rfl | rfl) <;> simp only [Opcode.code]
  exacts [Ne.symm h1, Ne.symm h2, Ne.symm h3, Ne.symm h4, Ne.symm h5]

/-- A field kept by its mask. -/
theorem byte_and_ff (x : Byte) : x &&& 0xFF = x := BitVec.and_allOnes

/-- A field cleared by its mask. -/
theorem byte_and_00 (x : Byte) : x &&& 0x00 = 0 := BitVec.and_zero

/-- A word belongs to a row exactly when its fields, cleared where the mask is zero, are the row's. -/
theorem rowMatches_wordOf (o : Opcode) (c m p : CmdWord) :
    rowMatches { op := o, mask := wordOf m, pattern := wordOf p } (wordOf c) =
      decide ({ op := c.op &&& m.op, rsv := c.rsv &&& m.rsv, b1 := c.b1 &&& m.b1, b0 := c.b0 &&& m.b0 } = p) := by
  rw [rowMatches, wordOf_and, Bool.eq_iff_iff, beq_iff_eq, wordOf_inj, decide_eq_true_eq]

/-- The opcode table with its masks and patterns written as fields. -/
theorem opcodeTable_fields : opcodeTable =
    [ { op := .rxbyte, mask := wordOf ⟨0xFF, 0xFF, 0xFF, 0x00⟩, pattern := wordOf ⟨0x01, 0, 0, 0⟩ },
      { op := .sendreq, mask := wordOf ⟨0xFF, 0xFF, 0xFF, 0xFF⟩, pattern := wordOf ⟨0x02, 0, 0, 0⟩ },
      { op := .crcInit, mask := wordOf ⟨0xFF, 0xFF, 0xFF, 0xFF⟩, pattern := wordOf ⟨0x10, 0, 0, 0⟩ },
      { op := .crcByte, mask := wordOf ⟨0xFF, 0xFF, 0xFF, 0x00⟩, pattern := wordOf ⟨0x11, 0, 0, 0⟩ },
      { op := .crcCmp, mask := wordOf ⟨0xFF, 0xFF, 0x00, 0x00⟩, pattern := wordOf ⟨0x12, 0, 0, 0⟩ } ] := by decide

/-- The decoder read off the fields of format `C` (R53, R56): everything it can answer. -/
theorem decode_wordOf (c : CmdWord) : decode (wordOf c) =
    if c.op = 0x01 ∧ c.rsv = 0 ∧ c.b1 = 0 then .ok (.rxbyte c.b0)
    else if c.op = 0x02 ∧ c.rsv = 0 ∧ c.b1 = 0 ∧ c.b0 = 0 then .ok .sendreq
    else if c.op = 0x10 ∧ c.rsv = 0 ∧ c.b1 = 0 ∧ c.b0 = 0 then .ok .crcInit
    else if c.op = 0x11 ∧ c.rsv = 0 ∧ c.b1 = 0 then .ok (.crcByte c.b0)
    else if c.op = 0x12 ∧ c.rsv = 0 then .ok (.crcCmp c.b0 c.b1)
    else .error (illegalReason c) := by
  simp only [decode, opcodeTable_fields, List.find?, rowMatches_wordOf, byte_and_ff, byte_and_00, CmdWord.mk.injEq, and_true,
    cmdWordOf_wordOf, instrOf]
  obtain ⟨o, r, p, q⟩ := c
  dsimp only
  by_cases h1 : o = 0x01 ∧ r = 0 ∧ p = 0
  · obtain ⟨rfl, rfl, rfl⟩ := h1
    rfl
  by_cases h2 : o = 0x02 ∧ r = 0 ∧ p = 0 ∧ q = 0
  · obtain ⟨rfl, rfl, rfl, rfl⟩ := h2
    rfl
  by_cases h3 : o = 0x10 ∧ r = 0 ∧ p = 0 ∧ q = 0
  · obtain ⟨rfl, rfl, rfl, rfl⟩ := h3
    rfl
  by_cases h4 : o = 0x11 ∧ r = 0 ∧ p = 0
  · obtain ⟨rfl, rfl, rfl⟩ := h4
    rfl
  by_cases h5 : o = 0x12 ∧ r = 0
  · obtain ⟨rfl, rfl⟩ := h5
    rfl
  simp only [h1, h2, h3, h4, h5, decide_false, if_false]

end Sys2Proof
end

