-- ==== Sys2Proof/Laws/PerInstr.lean ====
section
/-! SUPPORT. One lemma per command about its word: the fields encode lays out are those R54 allows, under the opcode of its row. -/

namespace Sys2Proof.Laws.Fields

open Sys2Proof

/-- A command's fields are well formed and carry its own operation code. -/
def Statement (i : Instr) : Prop :=
  (cmdWordOfInstr i).wellFormed = true ∧ Opcode.ofCode? (cmdWordOfInstr i).op = some i.opcode

theorem rxbyte (b : Byte) : Statement (.rxbyte b) := ⟨rfl, rfl⟩

theorem sendreq : Statement .sendreq := ⟨rfl, rfl⟩

theorem crcInit : Statement .crcInit := ⟨rfl, rfl⟩

theorem crcByte (b : Byte) : Statement (.crcByte b) := ⟨rfl, rfl⟩

theorem crcCmp (lo hi : Byte) : Statement (.crcCmp lo hi) := ⟨rfl, rfl⟩

end Sys2Proof.Laws.Fields
end

