-- ==== Sys2Proof/Laws/Step.lean ====
section
/-! SUPPORT. Everything a step can do: hold, reset, execute a command, or refuse a word. -/

namespace Sys2Proof.Machine

open Sys2Proof

theorem step_idle {s : State} (h : s.inbox = []) : step s = .next s := by
  simp [step, runNext, takeInput_nil h]

theorem step_rst {s : State} {rest : List Input} (h : s.inbox = .rst :: rest) : step s = .next (rst (s.setInbox rest)) := by
  simp [step, runNext, takeInput_cons h, runInput]

theorem step_cmd {s : State} {w : Word} {rest : List Input} (h : s.inbox = .cmd w :: rest) :
    step s = runWord w (s.setInbox rest) := by
  simp [step, runNext, takeInput_cons h, runInput]

theorem runWord_ok {w : Word} {i : Instr} (h : decode w = .ok i) (s : State) : runWord w s = exec i s := by
  simp [runWord, h]

theorem runWord_error {w : Word} {e : DecodeError} (h : decode w = .error e) (s : State) :
    runWord w s = .refused (refusalOf e) := by
  simp [runWord, h]

/-- Where a next state comes from. -/
theorem step_next_cases {s t : State} (h : step s = .next t) :
    (s.inbox = [] ∧ t = s) ∨ (∃ rest, s.inbox = .rst :: rest ∧ t = rst (s.setInbox rest)) ∨
      ∃ w rest i, s.inbox = .cmd w :: rest ∧ decode w = .ok i ∧ exec i (s.setInbox rest) = .next t := by
  cases hi : s.inbox with
  | nil => rw [step_idle hi] at h; cases h; exact .inl ⟨rfl, rfl⟩
  | cons x rest =>
    cases x with
    | rst => rw [step_rst hi] at h; cases h; exact .inr (.inl ⟨rest, rfl, rfl⟩)
    | cmd w =>
      rw [step_cmd hi] at h
      cases hd : decode w with
      | ok i => rw [runWord_ok hd] at h; exact .inr (.inr ⟨w, rest, i, rfl, hd, h⟩)
      | error e => rw [runWord_error hd] at h; cases h

/-- The commands other than RXBYTE, and the one state each goes to (R70-R72, R98). -/
theorem exec_not_rxbyte {i : Instr} (h : isRxbyte i = false) (s : State) :
    (i = .sendreq ∧ exec i s = .next (s.emit (.tx (requestFrame s.cfg)))) ∨
      (i = .crcInit ∧ exec i s = .next ((s.setCrcAcc crcSeed).setCrcOk false)) ∨
      (∃ b, i = .crcByte b ∧ exec i s = .next (s.setCrcAcc (crcStep s.crcAcc b))) ∨
      ∃ lo hi, i = .crcCmp lo hi ∧ exec i s = .next (s.setCrcOk (crcMatches s.crcAcc lo hi)) := by
  cases i with
  | rxbyte b => cases h
  | sendreq => exact .inl ⟨rfl, rfl⟩
  | crcInit => exact .inr (.inl ⟨rfl, rfl⟩)
  | crcByte b => exact .inr (.inr (.inl ⟨b, rfl, rfl⟩))
  | crcCmp lo hi => exact .inr (.inr (.inr ⟨lo, hi, rfl, rfl⟩))

/-- A run goes on from a step's next state, and stops where the step stops. -/
theorem run_succ_of_step (M : Host.Core) (k : Nat) (s : M.State) :
    (∀ t, M.step s = .next t → M.run (k + 1) s = M.run k t) ∧ (∀ f, M.step s = .fault f → M.run (k + 1) s = .fault f) ∧
      ∀ r, M.step s = .refused r → M.run (k + 1) s = .refused r := by
  refine ⟨fun t h => ?_, fun f h => ?_, fun r h => ?_⟩ <;> simp only [Host.Core.run, h]

theorem run_of_next {s t : State} (h : step s = .next t) (k : Nat) :
    Host.Core.run Sys2Proof.core (k + 1) s = Host.Core.run Sys2Proof.core k t := (run_succ_of_step Sys2Proof.core k s).1 t h

theorem run_of_fault {s : State} {f : Fault} (h : step s = .fault f) (k : Nat) :
    Host.Core.run Sys2Proof.core (k + 1) s = .fault f := (run_succ_of_step Sys2Proof.core k s).2.1 f h

theorem run_of_refused {s : State} {r : Refusal} (h : step s = .refused r) (k : Nat) :
    Host.Core.run Sys2Proof.core (k + 1) s = .refused r := (run_succ_of_step Sys2Proof.core k s).2.2 r h

@[simp] theorem exec_rxbyte (b : Byte) (s : State) : exec (.rxbyte b) s = execRxbyte b s := rfl

end Sys2Proof.Machine
end

