-- ==== Sys2Proof/Laws/Run.lean ====
section
/-! SUPPORT. Everything a step of a run can do (R135). -/

namespace Sys2Proof.Machine

open Sys2Proof

@[simp] theorem startRun_state (s : State) : (startRun s).state = s := rfl
@[simp] theorem startRun_refusals (s : State) : (startRun s).refusals = [] := rfl
@[simp] theorem keepRefusal_state (r : Run) (q : Refusal) : (keepRefusal r q).state = r.state := rfl
@[simp] theorem keepRefusal_refusals (r : Run) (q : Refusal) : (keepRefusal r q).refusals = r.refusals ++ [q] := rfl
@[simp] theorem observe_events (r : Run) : (observe r).events = r.state.events := rfl
@[simp] theorem observe_refusals (r : Run) : (observe r).refusals = r.refusals := rfl

theorem dropInput_cons {s : State} {x : Input} {rest : List Input} (h : s.inbox = x :: rest) : dropInput s = s.setInbox rest := by
  simp [dropInput, h]

theorem advanceRun_next {s t : State} (h : step s = .next t) (qs : List Refusal) :
    advanceRun ⟨s, qs⟩ = .ok ⟨t, qs⟩ := by simp only [advanceRun, h]

theorem advanceRun_refused {s : State} {q : Refusal} (h : step s = .refused q) (qs : List Refusal) :
    advanceRun ⟨s, qs⟩ = .ok ⟨dropInput s, qs ++ [q]⟩ := by simp only [advanceRun, h, keepRefusal]

theorem advanceRun_fault {s : State} {f : Fault} (h : step s = .fault f) (qs : List Refusal) :
    advanceRun ⟨s, qs⟩ = .error f := by simp only [advanceRun, h]

/-- A run goes on from a step that answers a run, and stops at a fault. -/
theorem advanceRunBy_succ {r r' : Run} (h : advanceRun r = .ok r') (n : Nat) : advanceRunBy (n + 1) r = advanceRunBy n r' := by
  simp only [advanceRunBy, h]

/-- A run with no refusal in it is the host's run of the machine. -/
theorem advanceRunBy_of_run {n : Nat} {s t : State} (qs : List Refusal) (h : Host.Core.run Sys2Proof.core n s = .next t) :
    advanceRunBy n ⟨s, qs⟩ = .ok ⟨t, qs⟩ := by
  induction n generalizing s with
  | zero => cases h; rfl
  | succ n ih =>
    cases hs : step s with
    | next u => rw [advanceRunBy_succ (advanceRun_next hs qs)]; exact ih (by rw [← run_of_next hs]; exact h)
    | fault f => rw [run_of_fault hs] at h; cases h
    | refused q => rw [run_of_refused hs] at h; cases h

end Sys2Proof.Machine
end

