-- ==== Sys2Proof/Tests/Slice0.lean ====
section
/-! SUPPORT. The model's own tests: words and values from 95_test_vectors.md, ill-formed terms for each check, and a state that
meets the hypotheses of each conditional statement. -/

namespace Sys2Proof.Tests

open Sys2Proof Sys2Proof.Machine

set_option maxRecDepth 20000

/-! ### WellFormed: an ill-formed term for each check -/

theorem test_wf_unknown_opcode : CmdWord.wellFormed ⟨0x03, 0, 0, 0⟩ = false := by decide
theorem test_wf_reserved_field : CmdWord.wellFormed ⟨0x12, 0x80, 0, 0⟩ = false := by decide
theorem test_wf_b1_must_be_zero : CmdWord.wellFormed ⟨0x01, 0, 0x01, 0⟩ = false := by decide
theorem test_wf_b0_must_be_zero : CmdWord.wellFormed ⟨0x02, 0, 0, 0x01⟩ = false := by decide
theorem test_wf_cmp_uses_both : CmdWord.wellFormed ⟨0x12, 0, 0x4B, 0x37⟩ = true := by decide
theorem test_wf_literal_too_large : (AsmLine.rxbyte 256).wellFormed = false := by decide
theorem test_wf_crc_byte_literal : (AsmLine.crcByte 256).wellFormed = false := by decide
theorem test_wf_cmp_literal : (AsmLine.crcCmp 0 256).wellFormed = false := by decide
theorem test_wf_frame_literal : (AsmLine.rxframe [0, 256]).wellFormed = false := by decide
theorem test_wf_empty_rxframe : (AsmLine.rxframe []).wellFormed = false := by decide
theorem test_wf_run_literal : (AsmLine.crcRun [300]).wellFormed = false := by decide
theorem test_wf_empty_crc_run : (AsmLine.crcRun []).wellFormed = true := by decide
theorem test_wf_verify_literal : (AsmLine.crcVerify [0] 0xBF 256).wellFormed = false := by decide

/-! ### Words, part 3 of 95_test_vectors.md: V-ENC-1 to V-ENC-15 -/

theorem test_decode_rxbyte : decode 0x010000A5 = .ok (.rxbyte 0xA5) := by decide
theorem test_decode_sendreq : decode 0x02000000 = .ok .sendreq := by decide
theorem test_decode_crc_init : decode 0x10000000 = .ok .crcInit := by decide
theorem test_decode_crc_byte : decode 0x11000031 = .ok (.crcByte 0x31) := by decide
theorem test_decode_crc_cmp : decode 0x12004B37 = .ok (.crcCmp 0x37 0x4B) := by decide
theorem test_encode_crc_cmp : encode (.crcCmp 0x37 0x4B) = 0x12004B37 := by decide
theorem test_refuse_op_00 : decode 0x00000000 = .error .unknownOpcode := by decide
theorem test_refuse_op_03 : decode 0x03000000 = .error .unknownOpcode := by decide
theorem test_refuse_op_0F : decode 0x0F000000 = .error .unknownOpcode := by decide
theorem test_refuse_op_13 : decode 0x13000000 = .error .unknownOpcode := by decide
theorem test_refuse_op_FF : decode 0xFF0000FF = .error .unknownOpcode := by decide
theorem test_refuse_b1 : decode 0x01000100 = .error .reservedBits := by decide
theorem test_refuse_rsv : decode 0x01010000 = .error .reservedBits := by decide
theorem test_refuse_b0 : decode 0x02000001 = .error .reservedBits := by decide
theorem test_refuse_init_b1 : decode 0x10000100 = .error .reservedBits := by decide
theorem test_refuse_cmp_rsv : decode 0x12800000 = .error .reservedBits := by decide
theorem test_table_word : decodeTableWord 32 0x11000031 = some (.crcByte 0x31) := by decide

/-! ### Small states -/

/-- The default configuration of 95_test_vectors.md. -/
def cfg01 : Config := { devAddr := 0x01, maxDet := 3 }

/-- The reset state with these bytes received since. -/
def received (cfg : Config) (bs : List Byte) : State :=
  { State.resetWith cfg with frame := bs.zipIdx.map (fun p => (p.2, p.1)), count := BitVec.ofNat 5 bs.length }

/-- The example frame W2, bytes 0..22. -/
def w2Head : List Byte :=
  [0x01, 0x04, 0x00, 0x14, 0x00, 0x00, 0x19, 0x80, 0x00, 0x00, 0x01, 0x00, 0x64, 0x00, 0x80, 0x00, 0x00, 0x00, 0x00, 0x00, 0x00,
    0x00, 0x00]

/-- The example frame W2. -/
def w2 : List Byte := w2Head ++ [0xC3, 0xC2]

/-- The frame of V-DEC-2, three detections. -/
def dec2 : List Byte :=
  [0x01, 0x04, 0x14, 0x11, 0x22, 0x33, 0x44, 0x19, 0x40, 0x00, 0x03, 0x01, 0x2C, 0x01, 0x80, 0x02, 0x58, 0x00, 0x40, 0xFF, 0xFF,
    0xFF, 0xFF, 0x9B, 0x9C]

/-- The state after W2's first 24 bytes. -/
def lastByteMissing : State := received cfg01 (w2Head ++ [0xC3])

/-- A constructed state with `COUNT = 25`, unreachable from reset (V-ASM-6). -/
def overfull : State := { State.resetWith cfg01 with count := 25 }

/-- The events of the next state. -/
def eventsOf (o : Host.Outcome State Fault Refusal) : Option (List Event) := (nextOf o).map (fun t => t.events)

/-! ### One step of each command -/

/-- V-ASM-4. -/
theorem test_rxbyte_completes_w2 : eventsOf (exec (.rxbyte 0xC2) lastByteMissing) = some [.cycle (.ok
    { ts := 0x00191400, temp := 0x8000, ndet := 1, det := [⟨0x0064, 0x0080⟩, ⟨0, 0⟩, ⟨0, 0⟩] }), .reqNext] := by decide

/-- V-ASM-5: the wrong last byte. -/
theorem test_rxbyte_bad_checksum : eventsOf (exec (.rxbyte 0xC3) lastByteMissing) =
    some [.cycle (.err .badChecksum), .reqNext] := by decide

/-- V-ASM-6: STATUS reads 0x00000100 afterwards (W6). -/
theorem test_rxbyte_overflow : (nextOf (exec (.rxbyte 0x77) overfull)).map (fun t => regValue t 0x00) =
    some (some 0x00000100) := by decide

/-- V-REQ-5. -/
theorem test_sendreq_2A : eventsOf (exec .sendreq (State.resetWith { devAddr := 0x2A, maxDet := 3 })) =
    some [.tx #v[0x2A, 0x04, 0x00, 0x14, 0x00, 0x0A, 0x36, 0x12]] := by decide

/-- V-PORT-1. -/
theorem test_crc_byte_from_reset : (nextOf (exec (.crcByte 0x00) (State.resetWith cfg01))).map (fun t => regValue t 0x07) =
    some (some 0x000040BF) := by decide

/-- V-PORT-4. -/
theorem test_crc_cmp_seed : (nextOf (exec (.crcCmp 0xFF 0xFF) (State.resetWith cfg01))).map (fun t => regValue t 0x00) =
    some (some 0x00010000) := by decide

/-- V-PORT-5: the right bytes, swapped. -/
theorem test_crc_cmp_swapped :
    (nextOf (exec (.crcCmp 0x09 0x30) { State.resetWith cfg01 with crcAcc := ⟨0x30, 0x09⟩ })).map (fun t => t.crcOk) =
      some false := by decide

/-- V-PORT-3. -/
theorem test_crc_init_reseeds :
    (nextOf (exec .crcInit { State.resetWith cfg01 with crcAcc := ⟨0xBF, 0x40⟩, crcOk := true })).map
      (fun t => (t.crcAcc, t.crcOk)) = some (⟨0xFF, 0xFF⟩, false) := by decide

/-- V-RST-1: the reset register values, from a state with a checksum and a partial frame. -/
theorem test_rst : (nextOf (step { received cfg01 [0x01, 0x04] with crcAcc := ⟨0x37, 0x4B⟩, crcOk := true, inbox := [.rst] })).map
    (fun t => (observe (startRun t)).registers) =
      some [some 0, some 0, some 0, some 0, some 0, some 0, some 0, some 0x0000FFFF, some 0x00030401] := by decide

/-- V-ENC-15. -/
theorem test_unmapped_read : readReg (State.resetWith cfg01) 0x09 = .error .unmappedRegister := by decide

/-- A refused word stops the step by name. -/
theorem test_step_refuses : step { State.resetWith cfg01 with inbox := [.cmd 0x13000000] } = .refused .unknownOpcode := rfl

/-- V-ENC-9 and V-ENC-11 between the commands of a run: the refusals are kept in order, and the commands after them run (R135). -/
theorem test_run_keeps_refusals :
    (match runInbox { State.resetWith cfg01 with
        inbox := [.cmd 0x010000A5, .cmd 0x13000000, .cmd 0x02000000, .cmd 0x01010000, .cmd 0x010000A6] } with
      | .ok r => ((observe r).events, (observe r).registers.head?, (observe r).refusals)
      | .error _ => ([], none, [])) =
      ([.tx #v[0x01, 0x04, 0x00, 0x14, 0x00, 0x0A, 0x30, 0x09]], some (some 2), [.unknownOpcode, .reservedBits]) := by decide

/-- V-ENC-15 between two steps of a run: its refusal is kept too. -/
theorem test_run_keeps_read_refusal :
    readDuringRun (startRun (State.resetWith cfg01)) 0x09 = (none, ⟨State.resetWith cfg01, [.unmappedRegister]⟩) := by decide

/-! ### The decoder on frames (2.3) and the checksum vectors (2.1) -/

/-- V-DEC-2. -/
theorem test_dec_2 : responseOf cfg01 dec2 = .ok { ts := 0x33441122, temp := 0x1940, ndet := 3, det := [⟨300, 0x0180⟩,
    ⟨600, 0x0040⟩, ⟨0xFFFF, 0xFFFF⟩] } := by decide

/-- V-DEC-2 through DECODE itself. -/
theorem test_dec_2_frame : decodeFrame (received cfg01 dec2) 25 = .ok (responseOf cfg01 dec2) := by decide

/-- V-DEC-7: `MAX_DET = 1`. -/
theorem test_dec_7 : decodeFrame (received { devAddr := 0x01, maxDet := 1 } dec2) 25 = .ok (.err .tooManyDetections) := by decide

/-- W3: byte 0 wrong and the checksum wrong too; check 2 decides. -/
theorem test_bad_address_first : decodeFrame (received cfg01 (0x09 :: w2.tail)) 25 = .ok (.err .badResponse) := by decide

/-- V-CRC-5, the standard check value. -/
theorem test_crc_check_value : compute [0x31, 0x32, 0x33, 0x34, 0x35, 0x36, 0x37, 0x38, 0x39] = ⟨0x37, 0x4B⟩ := by decide

/-- V-VER-3 and V-VER-4. -/
theorem test_verify_swapped : verify [0x00] 0xBF 0x40 = true ∧ verify [0x00] 0x40 0xBF = false := by decide

/-- W8, n = 23: the values 0..22. -/
theorem test_crc_23 : compute ((List.range 23).map (BitVec.ofNat 8)) = ⟨0x82, 0x81⟩ := by decide

/-! ### The assembler -/

/-- R60's example, `CRC_CMP 0x37, 0x4B` is 0x12004B37, as text with a comment. -/
theorem test_assemble_cmp : (assembleText "CRC_CMP 0x37, 0x4B ; check".toList).map (fun l => l.map encode) =
    some [0x12004B37] := by decide

/-- R61: two bytes, one written in decimal. -/
theorem test_assemble_rxframe : assembleText "RXFRAME 0x01, 20".toList = some [.rxbyte 0x01, .rxbyte 0x14] := by decide

/-- R60: a literal outside 0..255 is refused. -/
theorem test_assemble_refuses : assembleText "CRC_BYTE 256".toList = none := by decide

/-! ### States that meet the hypotheses of the conditional statements -/

/-- StepRunsTheDecodedCommand, IllegalWordsAreRefusedByName (each class at its edges: the refused words above), and
IssuedWordsRunInOrder: a word issued. -/
theorem witness_issued : ({ State.resetWith cfg01 with inbox := [.cmd 0x010000A5] } : State).inbox = .cmd 0x010000A5 :: [] ∧
    decode 0x010000A5 = .ok (.rxbyte 0xA5) := by decide

/-- IssuedWordsRunInOrder, the run over any inputs: a state that meets the invariant, and inputs of every kind. -/
theorem witness_any_inputs : (received cfg01 w2Head).Inv ∧
    ([.cmd 0x010000C3, .cmd 0x13000000, .rst, .cmd 0x12010000] : List Input).map refusalOfInput =
      [none, some .unknownOpcode, none, some .reservedBits] := by decide

/-- IllegalWordsAreRefusedByName, first class: a word at each edge of its ranges. -/
theorem witness_unknown_opcodes : ([0x00000000, 0x03000000, 0x0F000000, 0x13000000, 0xFF000000] : List Word).map decode =
    List.replicate 5 (.error .unknownOpcode) := by decide

/-- IllegalWordsAreRefusedByName, second class: `RSV` not zero under each assigned `OP`. -/
theorem witness_reserved_rsv : ([0x01010000, 0x02010000, 0x10010000, 0x11010000, 0x12010000] : List Word).map decode =
    List.replicate 5 (.error .reservedBits) := by decide

/-- IllegalWordsAreRefusedByName, third class: `B1` or `B0` not zero where it must be. -/
theorem witness_reserved_operands : ([0x01000100, 0x02000100, 0x10000100, 0x11000100, 0x02000001, 0x10000001] : List Word).map decode =
    List.replicate 6 (.error .reservedBits) := by decide

/-- StateIsHeldWhileNothingIsIssued, ResetInputSetsEveryElement and the last clause of EventsOfEachStepInOrder. -/
theorem witness_inboxes : (State.resetWith cfg01).inbox = [] ∧
    ({ lastByteMissing with inbox := [.rst] } : State).inbox = .rst :: [] := by decide

/-- DecoderFollowsTheOneMatchingRow: a word in a row, and a word in none. -/
theorem witness_rows : (∃ r ∈ opcodeTable, (0x110000FF : Word) &&& r.mask = r.pattern) ∧
    ∀ r ∈ opcodeTable, (0x12010000 : Word) &&& r.mask ≠ r.pattern := by decide

/-- EveryOneByteCorruptionIsDetected: a message that verifies, cut at a byte, and another value for that byte. -/
theorem witness_corruption : (0x04 : Byte) ≠ 0x05 ∧ verify ([0x01] ++ 0x04 :: [0x00, 0x14, 0x00, 0x0A]) 0x30 0x09 = true := by decide

/-- CrcVerifyLineSetsCrcOk; AssemblerExpandsOrRefuses at the edge of a literal's range. -/
theorem witness_verify_line : (AsmLine.crcVerify [255] 0xFF 0x00).wellFormed = true := by decide

/-- SendreqReadsAndWritesNoState and SampleRequestFrames: states of each sample address. -/
theorem witness_addresses : ∀ a ∈ ([0x00, 0x01, 0x02, 0x0F, 0xF7, 0xFF] : List Byte),
    (State.resetWith { devAddr := a, maxDet := 3 }).cfg.devAddr = a := by decide

/-- AppendStoresAtTheFillPosition, RxbyteBeforeTheLastOnlyStores: the lowest `COUNT` and the highest of each. -/
theorem witness_append_counts : (State.resetWith cfg01).count.toNat < 24 ∧ (received cfg01 w2Head).count.toNat = 23 ∧
    lastByteMissing.count.toNat = 24 := by decide

/-- TwentyFourBytesNeverDecode, TwentyFiveBytesMakeOneCycle: `COUNT = 0` and lists of the lengths they speak of. -/
theorem witness_lengths : (State.resetWith cfg01).count = 0 ∧ (w2Head ++ [0xC3]).length = 24 ∧ w2.length = 25 := by decide

/-- OverflowGuardRecovers and its clauses elsewhere: `COUNT` 25 and 31. -/
theorem witness_overflow_counts : 25 ≤ overfull.count.toNat ∧ 25 ≤ ({ overfull with count := 31 } : State).count.toNat := by decide

/-- FillingTheFrameDecodesAndResets, and the completing clause of EventsOfEachStepInOrder. -/
theorem witness_fill : lastByteMissing.count = 24 ∧ ∀ i < 24, (lastByteMissing.frame.read? i).isSome = true := by decide

/-- DecodingAnUnwrittenByteFaults. -/
theorem witness_unwritten : ({ State.resetWith cfg01 with count := 24 } : State).count = 24 ∧
    ({ State.resetWith cfg01 with count := 24 } : State).frame.read? 0 = none := by decide

/-- WrongLengthIsBadResponse: the lengths next to 25. -/
theorem witness_lengths_not_25 : (24 : Nat) ≠ 25 ∧ (26 : Nat) ≠ 25 := by decide

/-- AddressAndFunctionDecideBadResponse, DecodeRefinesTheFrameBytes, ChecksumOfTheFrameDecidesBadChecksum,
ExtractedFieldsFollowTheLayout: a state whose FRAME holds a good frame, addressed to it, that decodes. -/
theorem witness_frame_holds : FrameHolds (received cfg01 dec2) dec2 ∧ dec2.length = 25 ∧ byteAt dec2 0 = cfg01.devAddr ∧
    byteAt dec2 1 = 0x04 ∧ decodeFrame (received cfg01 dec2) 25 = .ok (.ok (readingOf cfg01 dec2)) :=
  ⟨by intro i h; revert i; decide, by decide, by decide, by decide, by decide⟩

/-- CountAboveCapacityIsAnError: counts 3 and 4 against `MAX_DET = 3`, both with good checksums (V-DEC-2, V-DEC-5). -/
theorem witness_counts : bytesAddressed cfg01 dec2 = true ∧ bytesVerified dec2 = true ∧ (byteAt dec2 10).toNat = cfg01.maxDet.val ∧
    bytesAddressed cfg01 (w2Head.set 10 0x04 ++ [0xCF, 0xC7]) = true ∧ bytesVerified (w2Head.set 10 0x04 ++ [0xCF, 0xC7]) = true ∧
    cfg01.maxDet.val < (byteAt (w2Head.set 10 0x04 ++ [0xCF, 0xC7]) 10).toNat := by decide

/-- UnusedBytesDoNotMatter: W2 and V-DEC-8, which differs from it in bytes 2, 9 and the checksum. -/
theorem witness_unused_bytes : bytesVerified w2 = true ∧
    bytesVerified ((w2Head.set 2 0xAB).set 9 0xCD ++ [0x0D, 0x1E]) = true ∧
    (∀ i < 23, i ≠ 2 → i ≠ 9 → i < 11 + 4 * (byteAt w2 10).toNat →
      byteAt ((w2Head.set 2 0xAB).set 9 0xCD ++ [0x0D, 0x1E]) i = byteAt w2 i) := by decide

/-- UnusedBytesDoNotMatter: two states that hold those frames. -/
theorem witness_unused_states : FrameHolds (received cfg01 w2) w2 ∧
    FrameHolds (received cfg01 ((w2Head.set 2 0xAB).set 9 0xCD ++ [0x0D, 0x1E])) ((w2Head.set 2 0xAB).set 9 0xCD ++ [0x0D, 0x1E]) :=
  ⟨by intro i h; revert i; decide, by intro i h; revert i; decide⟩

/-- AfterACycleTheBlockActsAsFresh: reset, and a state at `COUNT = 0` with stale bytes, a reading and an error. -/
theorem witness_after_a_cycle :
    let stale : State := { received cfg01 w2 with count := 0, lastErr := .failed .badResponse, crcOk := true }
    (State.resetWith cfg01).cfg = stale.cfg ∧ (State.resetWith cfg01).count = 0 ∧ stale.count = 0 := by decide

/-- StepsKeepTheInvariant, EveryCommandCompletesUnderTheInvariant, StepsKeepFrameCanonical, DetectionRegistersReadZeroAtRest,
AssemblerStateFollowsCount, NoStepChangesTheConfiguration: the invariant holds one byte before the end of a frame, and the step
that takes the waiting command has a next state. -/
theorem witness_invariant :
    let s : State := { lastByteMissing with inbox := [.cmd 0x010000C2] }
    s.Inv ∧ s.frame.wf = true ∧ (nextOf (step s)).isSome = true := by decide

/-- RxbyteWritesOneByteAtMost, NoFrameIndexAboveTwentyFour, OverflowExcludesTheDecodeErrors, TimestampChangesOnlyOnSuccess,
LastErrRecordsTheLastCycle: an RXBYTE has a next state at each kind of `COUNT`. -/
theorem witness_rxbyte_next : (nextOf (exec (.rxbyte 0x01) (State.resetWith cfg01))).isSome = true ∧
    (nextOf (exec (.rxbyte 0xC2) lastByteMissing)).isSome = true ∧ (nextOf (exec (.rxbyte 0x77) overfull)).isSome = true := by decide

/-- OnlyRxbyteTouchesTheFramePath, OnlyTheTestPortTouchesItsState: commands of each kind, with next states. -/
theorem witness_kinds : isRxbyte .sendreq = false ∧ isTestPort .sendreq = false ∧ isTestPort (.crcCmp 0 0) = true ∧
    ∀ i ∈ [Instr.sendreq, .crcInit, .crcByte 0x12, .crcCmp 0 0], (nextOf (exec i lastByteMissing)).isSome = true := by decide

/-- RegisterMapShowsTheFields: its clauses on DETk, at `MAX_DET` 3 (every k shown) and 0 (none). -/
theorem witness_det_registers : (2 : Nat) < cfg01.maxDet.val ∧ (State.resetWith cfg01).rd.det[2]? = some ⟨0, 0⟩ ∧
    ({ devAddr := 0x01, maxDet := 0 } : Config).maxDet.val ≤ 0 := by decide

/-- UnmappedReadsAreRefused: the numbers next to the edge. -/
theorem witness_register_edge : readReg (State.resetWith cfg01) 0x08 = .ok 0x00030401 ∧
    readReg (State.resetWith cfg01) 0xFF = .error .unmappedRegister := by decide

end Sys2Proof.Tests
end

section
/-! PROOFS. The family of 00_scope.md: a step is the command its word decodes to (O6), and no step changes the configuration
(O49). -/

namespace Sys2Proof.Machine

open Sys2Proof

/-- What a step from an issued word does, once the word is known to decode (R11, R43). -/
theorem step_cmd_decoded {s : State} {w : Word} {rest : List Input} {i : Instr} (hi : s.inbox = .cmd w :: rest)
    (hd : decode w = .ok i) : step s = exec i (s.setInbox rest) :=
  (step_cmd hi).trans (runWord_ok hd _)

/-- Settles O6: the step takes the word and runs what it decodes to. -/
theorem stepRunsTheDecodedCommand : Obligations.StepRunsTheDecodedCommand :=
  fun _ _ _ _ hi hd => step_cmd_decoded hi hd

/-- The CONFIG register is a function of the configuration alone (R28). -/
theorem readReg_config (s : State) : readReg s 8 = .ok (regConfig s.cfg) := rfl

theorem execRxbyte_keeps_cfg {b : Byte} {s t : State} (h : execRxbyte b s = .next t) : t.cfg = s.cfg := by
  obtain ⟨-, he⟩ | ⟨-, r, -, he⟩ | ⟨-, f, -, he⟩ | ⟨-, he⟩ := execRxbyte_cases b s <;> rw [he] at h <;> cases h
  · exact stored_cfg s b
  · simp only [cycleEnd_cfg, writeDecoded_cfg, stored_cfg]
  · exact cycleEnd_cfg s _

/-- No command writes the parameters of R7: RXBYTE by its own cases, the others by the one state each goes to. -/
theorem exec_keeps_cfg {i : Instr} {s t : State} (h : exec i s = .next t) : t.cfg = s.cfg := by
  cases hr : isRxbyte i with
  | true =>
    cases i with
    | rxbyte b => exact execRxbyte_keeps_cfg h
    | sendreq | crcInit | crcByte | crcCmp => cases hr
  | false =>
    obtain ⟨-, he⟩ | ⟨-, he⟩ | ⟨_, -, he⟩ | ⟨_, _, -, he⟩ := exec_not_rxbyte hr s <;> rw [he] at h <;> cases h
    · exact State.emit_cfg s _
    · simp only [State.setCrcOk_cfg, State.setCrcAcc_cfg]
    · exact State.setCrcAcc_cfg s _
    · exact State.setCrcOk_cfg s _

/-- A step that answers a next state held, reset or ran a command, and none of them writes the parameters (R7, R26). -/
theorem step_keeps_cfg {s t : State} (h : step s = .next t) : t.cfg = s.cfg := by
  obtain ⟨-, rfl⟩ | ⟨rest, -, rfl⟩ | ⟨w, rest, i, -, -, he⟩ := step_next_cases h
  · rfl
  · simp only [rst_cfg, State.setInbox_cfg]
  · exact (exec_keeps_cfg he).trans (State.setInbox_cfg s rest)

/-- Settles O49: the configuration is kept by every step, and CONFIG shows nothing else. -/
theorem noStepChangesTheConfiguration : Obligations.NoStepChangesTheConfiguration := by
  intro s t h
  have hcfg : t.cfg = s.cfg := step_keeps_cfg h
  refine ⟨hcfg, ?_⟩
  rw [readReg_config, readReg_config, hcfg]

end Sys2Proof.Machine
end

section
/-! PROOFS. The family of 10_state.md: the invariant and FRAME's canonical form (O45, O48), who changes which part of the state
(O50-O53), the register map (O56-O58) and the assembler state (O59). -/

namespace Sys2Proof.Machine

open Sys2Proof

/-! ### Everything a completed command can be -/

/-- The command `i` completes from `s` with the state shown: RXBYTE by its three ways, every other command by its one. -/
inductive CompletesAs (s : State) : Instr → State → Prop
  /-- The append that leaves room (R75, R76). -/
  | store (b : Byte) (room : s.count.toNat < 24) : CompletesAs s (.rxbyte b) (stored s b)
  /-- The append that fills the frame, and the cycle end with DECODE's result (R78). -/
  | fill (b : Byte) (r : CycleResult) (last : s.count.toNat = 24) (decoded : decodeFrame (stored s b) 25 = .ok r) :
      CompletesAs s (.rxbyte b) (cycleEnd (writeDecoded (stored s b) r) r)
  /-- The overflow guard (R77). -/
  | overflow (b : Byte) (full : 25 ≤ s.count.toNat) : CompletesAs s (.rxbyte b) (cycleEnd s (.err .overflow))
  | request : CompletesAs s .sendreq (s.emit (.tx (requestFrame s.cfg)))
  | seed : CompletesAs s .crcInit ((s.setCrcAcc crcSeed).setCrcOk false)
  | feed (b : Byte) : CompletesAs s (.crcByte b) (s.setCrcAcc (crcStep s.crcAcc b))
  | compare (lo hi : Byte) : CompletesAs s (.crcCmp lo hi) (s.setCrcOk (crcMatches s.crcAcc lo hi))

/-- A command answers next in one of the ways listed, and in no other. -/
theorem exec_completesAs {i : Instr} {s t : State} (h : exec i s = .next t) : CompletesAs s i t := by
  cases i with
  | rxbyte b =>
    rw [exec_rxbyte] at h
    obtain ⟨hc, he⟩ | ⟨hc, r, hd, he⟩ | ⟨-, f, -, he⟩ | ⟨hc, he⟩ := execRxbyte_cases b s <;> rw [he] at h <;> cases h
    · exact .store b hc
    · exact .fill b r hc hd
    · exact .overflow b hc
  | sendreq => cases h; exact .request
  | crcInit => cases h; exact .seed
  | crcByte b => cases h; exact .feed b
  | crcCmp lo hi => cases h; exact .compare lo hi

/-- A property that taking an input, RST and every command keep is kept by every step. -/
theorem step_keeps {P : State → Prop} (hinbox : ∀ s l, P s → P (s.setInbox l)) (hrst : ∀ s, P s → P (rst s))
    (hexec : ∀ s t i, P s → exec i s = .next t → P t) {s t : State} (hs : P s) (h : step s = .next t) : P t := by
  obtain ⟨-, rfl⟩ | ⟨rest, -, rfl⟩ | ⟨w, rest, i, -, -, he⟩ := step_next_cases h
  · exact hs
  · exact hrst _ (hinbox s rest hs)
  · exact hexec _ t i (hinbox s rest hs) he

/-! ### Who changes the frame path and the test port's state -/

/-- Settles O50: each of the other commands writes an event or the test port's state only. -/
theorem onlyRxbyteTouchesTheFramePath : Obligations.OnlyRxbyteTouchesTheFramePath := by
  intro s t i hi h
  cases exec_completesAs h with
  | store | fill | overflow => cases hi
  | request | seed | feed | compare => exact ⟨rfl, rfl, rfl, rfl, rfl, rfl⟩

/-- Settles O51: RXBYTE and SENDREQ leave the accumulator and `CRC_OK`, and each of the port's commands writes its own part. -/
theorem onlyTheTestPortTouchesItsState : Obligations.OnlyTheTestPortTouchesItsState := by
  intro s t i h
  cases exec_completesAs h with
  | store | fill | overflow => exact ⟨fun _ => by simp, nofun, nofun, nofun⟩
  | request => exact ⟨fun _ => ⟨rfl, rfl⟩, nofun, nofun, nofun⟩
  | seed => exact ⟨nofun, nofun, nofun, fun _ => rfl⟩
  | feed => exact ⟨nofun, nofun, fun _ => rfl, fun _ => rfl⟩
  | compare => exact ⟨nofun, fun _ => rfl, nofun, fun _ => rfl⟩

/-! ### The invariant -/

/-- An append inside FRAME keeps its canonical form (R34). -/
theorem stored_frame_wf {s : State} (b : Byte) (hs : s.frame.wf = true) (hc : s.count.toNat < 25) :
    (stored s b).frame.wf = true := Memory.wf_write s.frame s.count.toNat b hs hc

/-- Every command keeps FRAME's canonical form: the two appends write below `CAP`, and nothing else writes FRAME. -/
theorem exec_keeps_frame_wf {i : Instr} {s t : State} (hs : s.frame.wf = true) (h : exec i s = .next t) : t.frame.wf = true := by
  cases exec_completesAs h with
  | store b room => exact stored_frame_wf b hs (by omega)
  | fill b r last =>
    rw [cycleEnd_frame, writeDecoded_frame]
    exact stored_frame_wf b hs (by omega)
  | overflow => rwa [cycleEnd_frame]
  | request | seed | feed | compare => exact hs

/-- Settles O48: RST leaves the empty buffer, and a command keeps the form. -/
theorem stepsKeepFrameCanonical : Obligations.StepsKeepFrameCanonical := fun _ _ hs h =>
  step_keeps (P := fun s => s.frame.wf = true) (fun _ _ hs => hs) (fun _ _ => Memory.wf_nil) (fun _ _ _ => exec_keeps_frame_wf) hs h

/-- The invariant speaks of the configuration, FRAME, `COUNT` and `RD` only. -/
theorem State.Inv.of_same_frame_path {s t : State} (hs : s.Inv) (hcfg : t.cfg = s.cfg) (hframe : t.frame = s.frame)
    (hcount : t.count = s.count) (hrd : t.rd = s.rd) : t.Inv := by
  rwa [State.Inv, hcfg, hframe, hcount, hrd]

/-- An append that leaves room keeps the invariant: the byte it stores is the one more that `COUNT` counts (R75, R76). -/
theorem stored_inv {s : State} (b : Byte) (hs : s.Inv) (room : s.count.toNat < 24) : (stored s b).Inv := by
  obtain ⟨hwf, hcap, hwritten, hndet, hdet⟩ := hs
  have hcount : (stored s b).count.toNat = s.count.toNat + 1 := count_succ_toNat hcap
  have hroom : (stored s b).count.toNat < 25 := by omega
  refine ⟨stored_frame_wf b hwf hcap, hroom, fun j hj => ?_, hndet, hdet⟩
  rw [stored_frame]
  by_cases hjc : j = s.count.toNat
  · rw [hjc, Memory.read?_write_same, Option.isSome_some]
  · rw [Memory.read?_write_other _ _ hjc]
    exact hwritten j (by omega)

/-- The end of a cycle meets the invariant from every state whose FRAME is canonical: `COUNT` is 0 and no detection is kept
(R79). -/
theorem cycleEnd_inv {s : State} (r : CycleResult) (hs : s.frame.wf = true) : (cycleEnd s r).Inv := by
  refine ⟨by rwa [cycleEnd_frame], Nat.zero_lt_succ 24, fun j hj => absurd hj (Nat.not_lt_zero j), ?_, ?_⟩
  · rw [cycleEnd_rd]
  · rw [cycleEnd_rd, cycleEnd_cfg]

/-- RST meets the invariant from every state (R123). -/
theorem rst_inv (s : State) : (rst s).Inv :=
  ⟨Memory.wf_nil, Nat.zero_lt_succ 24, fun j hj => absurd hj (Nat.not_lt_zero j), rfl, rfl⟩

/-- Every command keeps the invariant. -/
theorem exec_keeps_inv {i : Instr} {s t : State} (hs : s.Inv) (h : exec i s = .next t) : t.Inv := by
  have ⟨hwf, hcap, _⟩ := hs
  cases hr : isRxbyte i with
  | false =>
    obtain ⟨hcount, hframe, hrd, -, hcfg, -⟩ := onlyRxbyteTouchesTheFramePath s t i hr h
    exact hs.of_same_frame_path hcfg hframe hcount hrd
  | true =>
    cases exec_completesAs h with
    | store b room => exact stored_inv b hs room
    | fill b r =>
      refine cycleEnd_inv r ?_
      rw [writeDecoded_frame]
      exact stored_frame_wf b hwf hcap
    | overflow => exact cycleEnd_inv _ hwf
    | request | seed | feed | compare => cases hr

/-- Settles O45: taking an input changes nothing the invariant speaks of, and RST and every command keep it. -/
theorem stepsKeepTheInvariant : Obligations.StepsKeepTheInvariant := fun _ _ hs h =>
  step_keeps (P := State.Inv) (fun _ _ hs => hs.of_same_frame_path rfl rfl rfl rfl) (fun s _ => rst_inv s)
    (fun _ _ _ => exec_keeps_inv) hs h

/-! ### What a cycle end records -/

/-- DECODE's write followed by the cycle end, on success: the reading's timestamp and temperature stay in `RD` (R79, R94). -/
theorem cycleEnd_writeDecoded_ok_rd (s : State) (snap : Reading) : (cycleEnd (writeDecoded s (.ok snap)) (.ok snap)).rd =
    { snap with ndet := 0, det := List.replicate s.cfg.maxDet.val Detection.zero } := by
  rw [cycleEnd_rd, writeDecoded_cfg]
  rfl

/-- Settles O52: an append and an error keep both, and a successful DECODE leaves its own. -/
theorem timestampChangesOnlyOnSuccess : Obligations.TimestampChangesOnlyOnSuccess := by
  intro s t i h
  cases exec_completesAs h with
  | store | overflow | request | seed | feed | compare => exact .inl (by simp)
  | fill b r =>
    cases r with
    | err e => exact .inl (by simp [writeDecoded])
    | ok snap => exact .inr ⟨snap, by simp, by rw [cycleEnd_writeDecoded_ok_rd], by rw [cycleEnd_writeDecoded_ok_rd]⟩

theorem lastErrCode_le (l : LastErr) : (lastErrCode l).toNat ≤ 4 := by
  cases l with
  | none => decide
  | failed e => cases e <;> decide

/-- Settles O53: only the two ways RXBYTE ends a cycle write `LAST_ERR`, and no other command emits a CYCLE. -/
theorem lastErrRecordsTheLastCycle : Obligations.LastErrRecordsTheLastCycle := by
  refine ⟨lastErrCode_le, fun s t i h => ?_⟩
  cases exec_completesAs h with
  | store | seed | feed | compare => exact .inl ⟨rfl, fun _ hr => hr⟩
  | request => exact .inl ⟨rfl, fun _ hr => by simpa using hr⟩
  | fill b r => exact .inr ⟨r, by simp, cycleEnd_lastErr _ r⟩
  | overflow => exact .inr ⟨.err .overflow, cycleEnd_events s _, cycleEnd_lastErr s _⟩

/-! ### The register map -/

/-- A field read back at its own bits of a register. -/
@[simp] theorem fieldAt_extract_same {w low : Nat} (v : BitVec w) (h : low + w ≤ 32) : (fieldAt v low).extractLsb' low w = v := by
  apply BitVec.eq_of_getLsbD_eq
  intro j hj
  simp [fieldAt, hj, show low + j < 32 by omega]

/-- Bits that do not meet a field are 0 in it. -/
@[simp] theorem fieldAt_extract_disjoint {w low start len : Nat} (v : BitVec w) (h : start + len ≤ low ∨ low + w ≤ start) :
    (fieldAt v low).extractLsb' start len = 0 := by
  apply BitVec.eq_of_getLsbD_eq
  intro j hj
  obtain h | h := h
  · simp [fieldAt, show start + j < low by omega]
  · simp [fieldAt, BitVec.getLsbD_of_ge v (start + j - low) (by omega)]

/-- The register-read port has an answer for 0x00 to 0x08 (R28). -/
theorem readReg_mapped (s : State) {n : Byte} (h : n.toNat < 9) : ∃ v, readReg s n = .ok v := by
  unfold readReg
  generalize n.toNat = k at h
  interval_cases k <;> exact ⟨_, rfl⟩

/-- The register-read port refuses 0x09 and above (R29). -/
theorem readReg_unmapped (s : State) {n : Byte} (h : 9 ≤ n.toNat) : readReg s n = .error .unmappedRegister := by
  obtain ⟨k, hk⟩ := Nat.exists_eq_add_of_le' h
  rw [readReg, hk]
  rfl

/-- Settles O57: a mapped number has a value, and every other is refused. -/
theorem unmappedReadsAreRefused : Obligations.UnmappedReadsAreRefused := by
  intro s n
  refine ⟨fun h => ?_, readReg_unmapped s⟩
  by_contra hn
  obtain ⟨v, hv⟩ := readReg_mapped s (not_le.mp hn)
  rw [hv] at h
  cases h

/-- The three DET registers (R28). -/
theorem readReg_det (s : State) {k : Nat} (hk : k < 3) : readReg s (BitVec.ofNat 8 (4 + k)) = .ok (regDet s k) := by
  interval_cases k <;> rfl

theorem regDet_above (s : State) {k : Nat} (h : s.cfg.maxDet.val ≤ k) : regDet s k = 0 := if_neg (not_lt.mpr h)

theorem regDet_listed (s : State) {k : Nat} {d : Detection} (h : k < s.cfg.maxDet.val) (hd : s.rd.det[k]? = some d) :
    regDet s k = fieldAt d.amp 0 ||| fieldAt d.dist 16 := by
  simp [regDet, h, List.getD, hd]

/-- Settles O56: each register is its fields side by side, and no field reaches a reserved bit. -/
theorem registerMapShowsTheFields : Obligations.RegisterMapShowsTheFields := by
  intro s
  refine ⟨⟨regStatus s, rfl, ?_⟩, rfl, ⟨fieldAt s.rd.temp 0, rfl, ?_⟩, ⟨fieldAt s.rd.ndet 0, rfl, ?_⟩, fun k hk => ?_,
    ⟨regCrc s, rfl, ?_⟩, ⟨regConfig s.cfg, rfl, ?_⟩⟩
  · simp [regStatus, BitVec.extractLsb'_or]
  · simp
  · simp
  · refine ⟨regDet s k, readReg_det s hk, regDet_above s, fun d hmax hd => ?_⟩
    simp [regDet_listed s hmax hd, BitVec.extractLsb'_or]
  · simp [regCrc, BitVec.extractLsb'_or]
  · simp [regConfig, BitVec.extractLsb'_or]

/-- Under the invariant every record is (0, 0), so a DET register reads 0 on either side of `MAX_DET`. -/
theorem regDet_of_inv {s : State} (hs : s.Inv) (k : Nat) : regDet s k = 0 := by
  obtain ⟨-, -, -, -, hdet⟩ := hs
  by_cases hk : k < s.cfg.maxDet.val
  · have hd : s.rd.det[k]? = some Detection.zero := by rw [hdet, List.getElem?_replicate, if_pos hk]
    rw [regDet_listed s hk hd]
    rfl
  · exact regDet_above s (not_lt.mp hk)

/-- Settles O58: the invariant holds `NDET` at 0 and every record at (0, 0). -/
theorem detectionRegistersReadZeroAtRest : Obligations.DetectionRegistersReadZeroAtRest := by
  intro s hs
  have hndet : readReg s 3 = .ok (fieldAt s.rd.ndet 0) := rfl
  have hdet : ∀ k < 3, readReg s (BitVec.ofNat 8 (4 + k)) = .ok 0 := fun k hk => by
    rw [readReg_det s hk, regDet_of_inv hs]
  refine ⟨?_, hdet 0 (by decide), hdet 1 (by decide), hdet 2 (by decide)⟩
  obtain ⟨-, -, -, hzero, -⟩ := hs
  rw [hndet, hzero]
  rfl

/-! ### The assembler state -/

theorem asmState_idle_iff (c : BitVec 5) (arrives : Bool) : asmState c arrives = some .idle ↔ c = 0 := by
  rw [← BitVec.toNat_inj]
  simp only [asmState, cap]
  split_ifs <;> simp_all

theorem asmState_accumulating_iff (c : BitVec 5) (arrives : Bool) :
    asmState c arrives = some .accumulating ↔ 1 ≤ c.toNat ∧ c.toNat ≤ 24 := by
  simp only [asmState, cap]
  split_ifs <;> simp <;> omega

theorem asmState_full_iff (c : BitVec 5) : asmState c false = some .full ↔ c.toNat = 25 := by
  simp only [asmState, cap, Bool.false_eq_true, if_false]
  split_ifs <;> simp <;> omega

theorem asmState_overflow_iff (c : BitVec 5) : asmState c true = some .overflow ↔ 25 ≤ c.toNat := by
  simp only [asmState, cap]
  split_ifs <;> simp <;> omega

/-- Settles O59: R17's rows one by one; the invariant's `COUNT` below 25 leaves the first two. -/
theorem assemblerStateFollowsCount : Obligations.AssemblerStateFollowsCount := by
  refine ⟨fun c arrives => ⟨asmState_idle_iff c arrives, asmState_accumulating_iff c arrives, asmState_full_iff c,
    asmState_overflow_iff c⟩, fun s hs => ?_⟩
  obtain ⟨-, hcap : s.count.toNat < 25, -⟩ := hs
  by_cases h0 : s.count = 0
  · exact .inl ((asmState_idle_iff _ _).mpr h0)
  · have hpos : s.count.toNat ≠ 0 := fun h => h0 (BitVec.eq_of_toNat_eq h)
    exact .inr ((asmState_accumulating_iff _ _).mpr ⟨by omega, by omega⟩)

end Sys2Proof.Machine
end

section
/-! PROOFS. The family of 20_memory.md: RXBYTE's frame over FRAME (O30), the indices of FRAME a step forms (O31), and issued
inputs run in order, refusals kept (O7). -/

namespace Sys2Proof.Machine

open Sys2Proof

/-! ### What RXBYTE writes of FRAME -/

/-- Settles O30: the two appends write FRAME[COUNT] and the guard writes nothing; no cycle end writes FRAME. -/
theorem rxbyteWritesOneByteAtMost : Obligations.RxbyteWritesOneByteAtMost := by
  intro s t b h
  have written : (stored s b).frame.read? s.count.toNat = some b := Memory.read?_write_same s.frame s.count.toNat b
  have other : ∀ a, a ≠ s.count.toNat → (stored s b).frame.read? a = s.frame.read? a :=
    fun a ha => Memory.read?_write_other s.frame b ha
  cases exec_completesAs h with
  | store b room => exact ⟨fun a ha => other a (by omega), fun _ => written, rfl, rfl, rfl, rfl⟩
  | fill b r last =>
    rw [cycleEnd_frame, writeDecoded_frame]
    exact ⟨fun a ha => other a (by omega), fun _ => written, by simp⟩
  | overflow b full =>
    rw [cycleEnd_frame]
    exact ⟨fun _ _ => rfl, fun hc => absurd hc (by omega), by simp⟩

/-! ### The indices of FRAME a step forms -/

/-- Only RXBYTE can fault, and only as the DECODE of a filled frame does. -/
theorem exec_fault_from_decode {i : Instr} {s : State} {f : Fault} (h : exec i s = .fault f) :
    ∃ t, decodeFrame t 25 = .error f := by
  cases i with
  | rxbyte b =>
    rw [exec_rxbyte] at h
    obtain ⟨-, he⟩ | ⟨-, r, -, he⟩ | ⟨-, g, hd, he⟩ | ⟨-, he⟩ := execRxbyte_cases b s <;> rw [he] at h <;> cases h
    exact ⟨stored s b, hd⟩
  | sendreq | crcInit | crcByte | crcCmp => cases h

/-- Where a fault comes from: a command, never an empty inbox or RST. -/
theorem step_fault_cases {s : State} {f : Fault} (h : step s = .fault f) :
    ∃ w rest i, s.inbox = .cmd w :: rest ∧ decode w = .ok i ∧ exec i (s.setInbox rest) = .fault f := by
  cases hi : s.inbox with
  | nil => rw [step_idle hi] at h; cases h
  | cons x rest =>
    cases x with
    | rst => rw [step_rst hi] at h; cases h
    | cmd w =>
      rw [step_cmd hi] at h
      cases hd : decode w with
      | ok i => exact ⟨w, rest, i, rfl, hd, by rwa [runWord_ok hd] at h⟩
      | error e => rw [runWord_error hd] at h; cases h

/-- No command changes what an index outside FRAME reads: RXBYTE by O30, and the others write no FRAME. -/
theorem exec_keeps_outside_frame {i : Instr} {s t : State} (h : exec i s = .next t) {a : Nat} (ha : 25 ≤ a) :
    t.frame.read? a = s.frame.read? a := by
  cases hr : isRxbyte i with
  | true =>
    cases i with
    | rxbyte b =>
      obtain ⟨hother, -⟩ := rxbyteWritesOneByteAtMost s t b h
      exact hother a (by omega)
    | sendreq | crcInit | crcByte | crcCmp => cases hr
  | false =>
    obtain ⟨-, hframe, -⟩ := onlyRxbyteTouchesTheFramePath s t i hr h
    rw [hframe]

/-- Settles O31: a step's only fault is one of DECODE, which forms no such index, and the appends stay below `CAP`. -/
theorem noFrameIndexAboveTwentyFour : Obligations.NoFrameIndexAboveTwentyFour := by
  refine ⟨fun s j h => ?_, fun s t i h a ha => exec_keeps_outside_frame h ha⟩
  obtain ⟨w, rest, i, -, -, he⟩ := step_fault_cases h
  obtain ⟨t, hd⟩ := exec_fault_from_decode he
  exact decodeFrame_noIndexFault t 25 j hd

/-! ### A command does not see the inbox -/

/-- An outcome with the waiting inputs of its next state replaced. -/
def withInbox (l : List Input) (o : Host.Outcome State Fault Refusal) : Host.Outcome State Fault Refusal :=
  match o with
  | .next t => .next (t.setInbox l)
  | .fault f => .fault f
  | .refused r => .refused r

theorem cycleEnd_setInbox (s : State) (l : List Input) (r : CycleResult) :
    cycleEnd (s.setInbox l) r = (cycleEnd s r).setInbox l := by cases r <;> rfl

theorem writeDecoded_setInbox (s : State) (l : List Input) (r : CycleResult) :
    writeDecoded (s.setInbox l) r = (writeDecoded s r).setInbox l := by cases r <;> rfl

theorem stored_setInbox (s : State) (l : List Input) (b : Byte) : stored (s.setInbox l) b = (stored s b).setInbox l := rfl

theorem decodeFrame_setInbox (s : State) (l : List Input) (len : Nat) : decodeFrame (s.setInbox l) len = decodeFrame s len :=
  decodeFrame_congr (State.setInbox_cfg s l) (State.setInbox_frame s l) len

theorem execRxbyte_setInbox (b : Byte) (s : State) (l : List Input) :
    execRxbyte b (s.setInbox l) = withInbox l (execRxbyte b s) := by
  obtain ⟨hc, he⟩ | ⟨hc, r, hr, he⟩ | ⟨hc, f, hf, he⟩ | ⟨hc, he⟩ := execRxbyte_cases b s <;> rw [he]
  · exact execRxbyte_store b hc
  · rw [execRxbyte_fill (s := s.setInbox l) b hc, stored_setInbox, decodeFrame_setInbox, hr]
    simp only [writeDecoded_setInbox, cycleEnd_setInbox]
    rfl
  · rw [execRxbyte_fill (s := s.setInbox l) b hc, stored_setInbox, decodeFrame_setInbox, hf]
    rfl
  · rw [execRxbyte_overflow (s := s.setInbox l) b hc, cycleEnd_setInbox]
    rfl

/-- A command reads no waiting input and leaves them all (R43). -/
theorem exec_setInbox (i : Instr) (s : State) (l : List Input) : exec i (s.setInbox l) = withInbox l (exec i s) := by
  cases i with
  | rxbyte b => exact execRxbyte_setInbox b s l
  | sendreq | crcInit | crcByte | crcCmp => rfl

/-- The step that takes a legal word off the front of an inbox. -/
theorem step_setInbox_cmd {w : Word} {i : Instr} (hd : decode w = .ok i) (s : State) (l : List Input) :
    step (s.setInbox (.cmd w :: l)) = withInbox l (exec i s) :=
  (step_cmd_decoded rfl hd).trans (exec_setInbox i s l)

/-! ### Which words decode -/

/-- The fields that are those of a command of R53 are the ones that decode (R54, R56). -/
theorem wellFormed_iff_decodes (c : CmdWord) : c.wellFormed = true ↔ ∃ i, decode (wordOf c) = .ok i := by
  rw [decode_wordOf]
  obtain ⟨op, rsv, b1, b0⟩ := c
  constructor
  · intro h
    unfold CmdWord.wellFormed at h
    split at h
    · cases h
    next o ho =>
      have hcode : o.code = op := by simpa using List.find?_some ho
      subst hcode
      cases o <;> simp_all [Opcode.code, Opcode.b1MustBeZero, Opcode.b0MustBeZero]
  · rintro ⟨i, h⟩
    dsimp only at h
    split_ifs at h with h1 h2 h3 h4 h5
    · obtain ⟨rfl, rfl, rfl⟩ := h1; rfl
    · obtain ⟨rfl, rfl, rfl, rfl⟩ := h2; rfl
    · obtain ⟨rfl, rfl, rfl, rfl⟩ := h3; rfl
    · obtain ⟨rfl, rfl, rfl⟩ := h4; rfl
    · obtain ⟨rfl, rfl⟩ := h5; rfl

/-- The word of a command decodes to it (R53, R56). -/
theorem decode_encode (i : Instr) : decode (encode i) = .ok i := by
  rw [encode, decode_wordOf]
  cases i <;> simp [cmdWordOfInstr, Opcode.code]

/-- A word that does not decode is refused for the reason its fields give (R57). -/
theorem decode_error_reason {w : Word} {e : DecodeError} (h : decode w = .error e) : e = illegalReason (cmdWordOf w) := by
  unfold decode at h
  split at h <;> cases h
  rfl

/-- `refusalOfInput`, read off the fields, is the decoder's refusal. -/
theorem refusalOfInput_decoded {w : Word} {i : Instr} (h : decode w = .ok i) : refusalOfInput (.cmd w) = none :=
  if_pos ((wellFormed_iff_decodes _).mpr ⟨i, by rwa [wordOf_cmdWordOf]⟩)

theorem refusalOfInput_illegal {w : Word} {e : DecodeError} (h : decode w = .error e) :
    refusalOfInput (.cmd w) = some (refusalOf e) := by
  have hwf : ¬(cmdWordOf w).wellFormed = true := fun hwf => by
    obtain ⟨i, hi⟩ := (wellFormed_iff_decodes _).mp hwf
    rw [wordOf_cmdWordOf, h] at hi
    cases hi
  rw [decode_error_reason h]
  exact if_neg hwf

/-! ### Every command completes under the invariant -/

/-- The extraction of a fully written frame, field by field (R90-R93). -/
theorem extract_holds {s : State} {bs : List Byte} (hlen : bs.length = cap) (h : FrameHolds s bs) :
    extract s (byteAt bs 10) = .ok (readingOf s.cfg bs) := by
  rw [extract, readTimestamp_holds hlen h, readTemperature_holds hlen h, readDetections_holds hlen h, interleave_eq_append]
  rfl

/-- DECODE of a fully written frame answers the result its bytes decide (R84, R85). -/
theorem decodeFrame_holds {s : State} {bs : List Byte} (hlen : bs.length = cap) (h : FrameHolds s bs) :
    decodeFrame s 25 = .ok (responseOf s.cfg bs) := by
  rw [decodeFrame, if_neg (not_not.mpr rfl), addressed_holds hlen h, checksumOk_holds hlen h, countAndExtract,
    readFrame_holds hlen h (by decide)]
  simp only [except_ok_bind, extract_holds hlen h, responseOf]
  cases bytesAddressed s.cfg bs with
  | false => rfl
  | true =>
    cases bytesVerified bs with
    | false => rfl
    | true =>
      by_cases hn : s.cfg.maxDet.val < (byteAt bs 10).toNat
      · simp only [hn, if_true]
        rfl
      · simp only [hn, if_false]
        rfl

/-- No command stops a state that meets the invariant: a frame that fills is fully written, so DECODE answers (R82). -/
theorem exec_next_of_inv {s : State} (hs : s.Inv) (i : Instr) : ∃ t, exec i s = .next t := by
  obtain ⟨-, -, hwritten, -⟩ := hs
  cases i with
  | rxbyte b =>
    rw [exec_rxbyte]
    obtain ⟨-, he⟩ | ⟨-, r, -, he⟩ | ⟨hc, f, hf, -⟩ | ⟨-, he⟩ := execRxbyte_cases b s
    · exact ⟨_, he⟩
    · exact ⟨_, he⟩
    · obtain ⟨bs, hlen, hbs⟩ := frameWritten_holds (stored_frameWritten b hc hwritten)
      rw [decodeFrame_holds hlen hbs] at hf
      cases hf
    · exact ⟨_, he⟩
  | sendreq | crcInit | crcByte | crcCmp => exact ⟨_, rfl⟩

/-! ### Runs over issued inputs -/

/-- Words issued together, one a step, are the commands executed one after another. -/
theorem run_encoded_eq_execAll (is : List Instr) : ∀ s : State,
    Host.Core.run Sys2Proof.core is.length (s.setInbox (is.map fun i => .cmd (encode i))) = execAll is (s.setInbox []) := by
  induction is with
  | nil => exact fun _ => rfl
  | cons i is ih =>
    intro s
    have hstep := step_setInbox_cmd (decode_encode i) s (is.map fun i => .cmd (encode i))
    have hexec := exec_setInbox i s []
    rw [List.length_cons, List.map_cons, execAll, hexec]
    cases he : exec i s with
    | next t =>
      rw [he] at hstep
      rw [run_of_next hstep]
      exact ih t
    | fault f =>
      rw [he] at hstep
      exact run_of_fault hstep _
    | refused r =>
      rw [he] at hstep
      exact run_of_refused hstep _

/-- An input without a refusal completes from a state that meets the invariant, whatever waits behind it. -/
theorem step_of_meant_input {s : State} (hs : s.Inv) {x : Input} (hx : refusalOfInput x = none) :
    ∃ t : State, t.Inv ∧ ∀ l, step (s.setInbox (x :: l)) = .next (t.setInbox l) := by
  cases x with
  | rst => exact ⟨rst s, rst_inv s, fun l => step_rst (s := s.setInbox (.rst :: l)) rfl⟩
  | cmd w =>
    cases hd : decode w with
    | error e => rw [refusalOfInput_illegal hd] at hx; cases hx
    | ok i =>
      obtain ⟨t, he⟩ := exec_next_of_inv hs i
      refine ⟨t, exec_keeps_inv hs he, fun l => ?_⟩
      rw [step_setInbox_cmd hd, he]
      rfl

/-- An input with a refusal is refused under that name, whatever the state and the inputs behind it (R57). -/
theorem step_of_refused_input {x : Input} {q : Refusal} (hx : refusalOfInput x = some q) (s : State) (l : List Input) :
    step (s.setInbox (x :: l)) = .refused q := by
  cases x with
  | rst => cases hx
  | cmd w =>
    cases hd : decode w with
    | ok i => rw [refusalOfInput_decoded hd] at hx; cases hx
    | error e =>
      rw [refusalOfInput_illegal hd] at hx
      cases hx
      exact (step_cmd rfl).trans (runWord_error hd _)

/-- A run over any inputs, with refusals `qs` kept before them: each input either makes the same step in both runs, or adds its
refusal to one and is absent from the other. -/
theorem run_over_inputs (inputs : List Input) : ∀ {s : State}, s.Inv → ∀ qs : List Refusal, ∃ t : State,
    advanceRunBy inputs.length ⟨s.setInbox inputs, qs⟩ = .ok ⟨t, qs ++ inputs.filterMap refusalOfInput⟩ ∧
      Host.Core.run Sys2Proof.core (meantInputs inputs).length (s.setInbox (meantInputs inputs)) = .next t ∧
      t.inbox = [] ∧ t.Inv := by
  induction inputs with
  | nil =>
    intro s hs qs
    refine ⟨s.setInbox [], ?_, rfl, rfl, hs.of_same_frame_path rfl rfl rfl rfl⟩
    rw [List.filterMap_nil, List.append_nil]
    rfl
  | cons x rest ih =>
    intro s hs qs
    cases hx : refusalOfInput x with
    | none =>
      obtain ⟨u, hu, hstep⟩ := step_of_meant_input hs hx
      obtain ⟨t, hrun, hmeant, hend⟩ := ih hu qs
      refine ⟨t, ?_, ?_, hend⟩
      · rw [List.length_cons, advanceRunBy_succ (advanceRun_next (hstep rest) qs), List.filterMap_cons_none hx, hrun]
      · rw [meantInputs, List.filter_cons_of_pos (by rw [hx]; rfl), List.length_cons, run_of_next (hstep _)]
        exact hmeant
    | some q =>
      obtain ⟨t, hrun, hmeant, hend⟩ := ih hs (qs ++ [q])
      refine ⟨t, ?_, ?_, hend⟩
      · rw [List.length_cons, advanceRunBy_succ (advanceRun_refused (step_of_refused_input hx s rest) qs),
          List.filterMap_cons_some hx, List.append_cons qs q (rest.filterMap refusalOfInput)]
        exact hrun
      · rw [meantInputs, List.filter_cons_of_neg (by simp [hx])]
        exact hmeant

/-- Settles O7: induction over the commands, and over the inputs from a state that meets the invariant. -/
theorem issuedWordsRunInOrder : Obligations.IssuedWordsRunInOrder :=
  ⟨fun s is => run_encoded_eq_execAll is s, fun _ inputs hs => run_over_inputs inputs hs []⟩

end Sys2Proof.Machine
end

section
/-! PROOFS. The family of 30_encoding.md: the decoder and the encoder (O1, O2, O3, O5), the illegal words (O4), the assembler
(O60), and the pseudo-instructions of the test port executed (O19, O20). -/

namespace Sys2Proof.Machine

open Sys2Proof

/-! ### Commands and their words -/

/-- A 32-bit word is the one its own number names. -/
theorem tableWord_toNat (w : Word) : tableWord 32 w.toNat = w := by
  rw [tableWord, Nat.mod_eq_of_lt w.isLt, BitVec.ofNat_toNat, BitVec.setWidth_eq]

/-- The host's view of a word that decodes is the command it decodes to. -/
theorem decodeTableWord_of_decode {w : Word} {i : Instr} (h : decode w = .ok i) : decodeTableWord 32 w.toNat = some i := by
  rw [decodeTableWord, if_neg (lt_irrefl 32), tableWord_toNat, h]

/-- Settles O1: the decoder reads back the fields the encoder lays out. -/
theorem encodedCommandsDecodeBack : Obligations.EncodedCommandsDecodeBack :=
  fun i => ⟨decode_encode i, decodeTableWord_of_decode (decode_encode i)⟩

/-- The word of a command decodes to it, for a word written out. -/
theorem decode_of_encode_eq {w : Word} {i : Instr} (h : encode i = w) : decode w = .ok i := h ▸ decode_encode i

/-- Settles O5: each word is the one R60 gives its command. -/
theorem sampleWordsDecode : Obligations.SampleWordsDecode :=
  ⟨decode_of_encode_eq (by decide), decode_of_encode_eq (by decide), decode_of_encode_eq (by decide),
    decode_of_encode_eq (by decide), decode_of_encode_eq (by decide)⟩

/-- Fields that decode are those of the command they decode to: each row fixes every field but the operands it takes (R53). -/
theorem cmdWordOfInstr_of_decode {c : CmdWord} {i : Instr} (h : decode (wordOf c) = .ok i) : cmdWordOfInstr i = c := by
  rw [decode_wordOf] at h
  obtain ⟨op, rsv, b1, b0⟩ := c
  dsimp only at h
  split_ifs at h with h1 h2 h3 h4 h5 <;> cases h
  · obtain ⟨rfl, rfl, rfl⟩ := h1; rfl
  · obtain ⟨rfl, rfl, rfl, rfl⟩ := h2; rfl
  · obtain ⟨rfl, rfl, rfl, rfl⟩ := h3; rfl
  · obtain ⟨rfl, rfl, rfl⟩ := h4; rfl
  · obtain ⟨rfl, rfl⟩ := h5; rfl

/-- A word that decodes is the word of its command. -/
theorem encode_of_decode {w : Word} {i : Instr} (h : decode w = .ok i) : encode i = w := by
  rw [← wordOf_cmdWordOf w] at h
  rw [encode, cmdWordOfInstr_of_decode h, wordOf_cmdWordOf]

/-- Settles O2: the encoder inverts the decoder, and the fields that decode are the well-formed ones. -/
theorem decodedWordsEncodeBack : Obligations.DecodedWordsEncodeBack := by
  refine fun w => ⟨fun i => encode_of_decode, ?_⟩
  rw [wellFormed_iff_decodes, wordOf_cmdWordOf]

/-! ### The rows of the opcode table -/

/-- A row fixes every bit of `OP`, at its own operation code. -/
theorem opcodeTable_fixes_op : ∀ r ∈ opcodeTable,
    r.mask.extractLsb' 24 8 = BitVec.allOnes 8 ∧ r.pattern.extractLsb' 24 8 = r.op.code := by decide

/-- No two rows have one operation code (R53). -/
theorem opcodeTable_code_inj : ∀ r ∈ opcodeTable, ∀ r' ∈ opcodeTable, r.op.code = r'.op.code → r = r' := by decide

/-- A word that matches a row carries the row's operation code. -/
theorem op_of_row_match {w : Word} {r : OpRow} (hr : r ∈ opcodeTable) (h : w &&& r.mask = r.pattern) :
    w.extractLsb' 24 8 = r.op.code := by
  obtain ⟨hmask, hpattern⟩ := opcodeTable_fixes_op r hr
  rw [← hpattern, ← h, BitVec.extractLsb'_and, hmask, BitVec.and_allOnes]

/-- At most one row matches a word (R56): the word's `OP` names the row. -/
theorem matching_row_unique {w : Word} {r r' : OpRow} (hr : r ∈ opcodeTable) (hr' : r' ∈ opcodeTable)
    (h : w &&& r.mask = r.pattern) (h' : w &&& r'.mask = r'.pattern) : r = r' :=
  opcodeTable_code_inj r hr r' hr' ((op_of_row_match hr h).symm.trans (op_of_row_match hr' h'))

theorem rowMatches_iff {r : OpRow} {w : Word} : rowMatches r w = true ↔ w &&& r.mask = r.pattern := beq_iff_eq

/-- The decoder's first matching row is the row that matches. -/
theorem decode_of_row_match {w : Word} {r : OpRow} (hr : r ∈ opcodeTable) (h : w &&& r.mask = r.pattern) :
    decode w = .ok (instrOf r.op (cmdWordOf w)) := by
  cases hfind : opcodeTable.find? (fun r => rowMatches r w) with
  | none => exact absurd (rowMatches_iff.mpr h) (List.find?_eq_none.mp hfind r hr)
  | some r' =>
    have hmatch : w &&& r'.mask = r'.pattern := rowMatches_iff.mp (List.find?_some (p := (rowMatches · w)) hfind)
    have hsame : r' = r := matching_row_unique (List.mem_of_find?_eq_some hfind) hr hmatch h
    rw [decode, hfind, hsame]

/-- A word no row matches gets R57's refusal. -/
theorem decode_of_no_row {w : Word} (h : ∀ r ∈ opcodeTable, w &&& r.mask ≠ r.pattern) :
    decode w = .error (illegalReason (cmdWordOf w)) := by
  have hfind : opcodeTable.find? (fun r => rowMatches r w) = none :=
    List.find?_eq_none.mpr fun r hr hm => h r hr (rowMatches_iff.mp hm)
  rw [decode, hfind]

/-- Settles O3: a matching row is the decoder's, since `OP` tells the rows apart. -/
theorem decoderFollowsTheOneMatchingRow : Obligations.DecoderFollowsTheOneMatchingRow :=
  fun _ => ⟨fun _ => decode_of_row_match, decode_of_no_row, fun _ hr _ hr' => matching_row_unique hr hr'⟩

/-! ### Illegal words -/

/-- A step that takes a word whose fields are not well formed refuses it for the reason they give (R57). -/
theorem step_of_illegal_word {s : State} {w : Word} {rest : List Input} (hi : s.inbox = .cmd w :: rest)
    (h : ¬(cmdWordOf w).wellFormed = true) : step s = .refused (refusalOf (illegalReason (cmdWordOf w))) := by
  have hs : s.setInbox (.cmd w :: rest) = s := by rw [← hi]; rfl
  rw [← hs]
  exact step_of_refused_input (x := .cmd w) (if_neg h) s rest

theorem not_wellFormed_of_unassigned {c : CmdWord} (h : Opcode.ofCode? c.op = none) : ¬c.wellFormed = true := by
  simp [CmdWord.wellFormed, h]

theorem wellFormed_iff_of_assigned {c : CmdWord} {o : Opcode} (h : Opcode.ofCode? c.op = some o) :
    c.wellFormed = true ↔
      c.rsv = 0 ∧ (o.b1MustBeZero = true → c.b1 = 0) ∧ (o.b0MustBeZero = true → c.b0 = 0) := by
  simp only [CmdWord.wellFormed, h, Bool.and_eq_true, Bool.or_eq_true, Bool.not_eq_true', beq_iff_eq, ← Bool.not_eq_true,
    ← imp_iff_not_or, and_assoc]

/-- A word whose `OP` is not assigned is refused as `UnknownOpcode`. -/
theorem step_of_unassigned {s : State} {w : Word} {rest : List Input} (hi : s.inbox = .cmd w :: rest)
    (h : Opcode.ofCode? (w.extractLsb' 24 8) = none) : step s = .refused .unknownOpcode := by
  have hreason : illegalReason (cmdWordOf w) = .unknownOpcode := by simp only [illegalReason, cmdWordOf, h]
  rw [step_of_illegal_word hi (not_wellFormed_of_unassigned h), hreason]
  rfl

/-- A word whose `OP` is assigned and whose fields are not well formed is refused as `ReservedBits`. -/
theorem step_of_reserved {s : State} {w : Word} {rest : List Input} {o : Opcode} (hi : s.inbox = .cmd w :: rest)
    (ho : Opcode.ofCode? (w.extractLsb' 24 8) = some o) (h : ¬(cmdWordOf w).wellFormed = true) :
    step s = .refused .reservedBits := by
  have hreason : illegalReason (cmdWordOf w) = .reservedBits := by simp only [illegalReason, cmdWordOf, ho]
  rw [step_of_illegal_word hi h, hreason]
  rfl

/-- The ranges of `OP` that R57 lists are not assigned. -/
theorem ofCode?_of_listed_range {a : Byte} (h : a = 0x00 ∨ (0x03 ≤ a.toNat ∧ a.toNat ≤ 0x0F) ∨ 0x13 ≤ a.toNat) :
    Opcode.ofCode? a = none := by
  have hassigned : ∀ k ∈ ([0x01, 0x02, 0x10, 0x11, 0x12] : List Byte),
      ¬(k = 0x00 ∨ (0x03 ≤ k.toNat ∧ k.toNat ≤ 0x0F) ∨ 0x13 ≤ k.toNat) := by decide
  have hne : ∀ k ∈ ([0x01, 0x02, 0x10, 0x11, 0x12] : List Byte), a ≠ k := fun k hk hak => hassigned k hk (hak ▸ h)
  exact ofCode?_none (hne _ (by simp)) (hne _ (by simp)) (hne _ (by simp)) (hne _ (by simp)) (hne _ (by simp))

/-- The assigned codes (R53). -/
theorem ofCode?_of_assigned : ∀ a ∈ ([0x01, 0x02, 0x10, 0x11, 0x12] : List Byte), ∃ o, Opcode.ofCode? a = some o := by
  simp only [← Option.isSome_iff_exists]
  decide

/-- The codes whose `B1` must be 0x00 (R53). -/
theorem ofCode?_of_b1MustBeZero : ∀ a ∈ ([0x01, 0x02, 0x10, 0x11] : List Byte),
    ∃ o, Opcode.ofCode? a = some o ∧ o.b1MustBeZero = true := by
  simp only [← Option.any_eq_true]
  decide

/-- The codes whose `B0` must be 0x00 (R53). -/
theorem ofCode?_of_b0MustBeZero : ∀ a ∈ ([0x02, 0x10] : List Byte),
    ∃ o, Opcode.ofCode? a = some o ∧ o.b0MustBeZero = true := by
  simp only [← Option.any_eq_true]
  decide

/-- Settles O4: an `OP` in the listed ranges is not assigned, and each reserved field that is not zero breaks the fields of an
assigned one. -/
theorem illegalWordsAreRefusedByName : Obligations.IllegalWordsAreRefusedByName := by
  refine fun s w rest hi => ⟨fun h => step_of_unassigned hi (ofCode?_of_listed_range h), fun hop hrsv => ?_, fun hop hb1 => ?_,
    fun hop hb0 => ?_⟩
  · obtain ⟨o, ho⟩ := ofCode?_of_assigned _ hop
    refine step_of_reserved hi ho fun hwf => ?_
    obtain ⟨h, -, -⟩ := (wellFormed_iff_of_assigned ho).mp hwf
    exact hrsv h
  · obtain ⟨o, ho, hz⟩ := ofCode?_of_b1MustBeZero _ hop
    refine step_of_reserved hi ho fun hwf => ?_
    obtain ⟨-, h, -⟩ := (wellFormed_iff_of_assigned ho).mp hwf
    exact hb1 (h hz)
  · obtain ⟨o, ho, hz⟩ := ofCode?_of_b0MustBeZero _ hop
    refine step_of_reserved hi ho fun hwf => ?_
    obtain ⟨-, -, h⟩ := (wellFormed_iff_of_assigned ho).mp hwf
    exact hb0 (h hz)

/-! ### The assembler -/

theorem literalOk_iff {n : Nat} : literalOk n = true ↔ n ≤ 255 := decide_eq_true_iff

theorem all_literalOk_iff {bs : List Nat} : bs.all literalOk = true ↔ ∀ b ∈ bs, b ≤ 255 := by
  simp only [List.all_eq_true, literalOk_iff]

/-- The assembler answers the expansion exactly under the checks of the line's form. -/
theorem assembleLine_of_wellFormed_iff {l : AsmLine} {p : Prop} [Decidable p] (h : l.wellFormed = true ↔ p) :
    assembleLine l = if p then some (expandLine l) else none := if_congr h rfl rfl

/-- Settles O60: R60's and R61's checks of each form of line, and its expansion. -/
theorem assemblerExpandsOrRefuses : Obligations.AssemblerExpandsOrRefuses := by
  refine ⟨fun b => ?_, rfl, rfl, fun b => ?_, fun lo hi => ?_, fun bs => ?_, fun bs => ?_, fun bs lo hi => ?_⟩
  · exact assembleLine_of_wellFormed_iff (l := .rxbyte b) literalOk_iff
  · exact assembleLine_of_wellFormed_iff (l := .crcByte b) literalOk_iff
  · exact assembleLine_of_wellFormed_iff (l := .crcCmp lo hi) (by simp only [AsmLine.wellFormed, Bool.and_eq_true, literalOk_iff])
  · exact assembleLine_of_wellFormed_iff (l := .rxframe bs) (by
      simp only [AsmLine.wellFormed, Bool.and_eq_true, all_literalOk_iff, Bool.not_eq_true', List.isEmpty_eq_false_iff])
  · exact assembleLine_of_wellFormed_iff (l := .crcRun bs) all_literalOk_iff
  · exact assembleLine_of_wellFormed_iff (l := .crcVerify bs lo hi) (by
      simp only [AsmLine.wellFormed, Bool.and_eq_true, all_literalOk_iff, literalOk_iff, and_assoc])

/-! ### The test port's pseudo-instructions executed -/

/-- Commands after commands that complete run from the state those leave. -/
theorem execAll_append {is js : List Instr} {s t : State} (h : execAll is s = .next t) :
    execAll (is ++ js) s = execAll js t := by
  induction is generalizing s with
  | nil => cases h; rfl
  | cons i is ih =>
    rw [execAll] at h
    rw [List.cons_append, execAll]
    cases he : exec i s with
    | next u => rw [he] at h; exact ih h
    | fault f => rw [he] at h; cases h
    | refused r => rw [he] at h; cases h

/-- CRC_BYTEs run the checksum steps over their bytes (R71). -/
theorem execAll_crcBytes (bs : List Byte) (s : State) :
    execAll (bs.map Instr.crcByte) s = .next (s.setCrcAcc (crcRun s.crcAcc bs)) := by
  induction bs generalizing s with
  | nil => rfl
  | cons b bs ih => exact ih (s.setCrcAcc (crcStep s.crcAcc b))

/-- Settles O19: CRC_INIT seeds the accumulator that the CRC_BYTEs run on. -/
theorem crcRunComputesTheChecksum : Obligations.CrcRunComputesTheChecksum :=
  fun s bs => execAll_crcBytes bs ((s.setCrcAcc crcSeed).setCrcOk false)

/-- The expansion of a `CRC_RUN` line is a CRC_INIT and the CRC_BYTEs of its bytes (R61). -/
theorem expandCrcRun_eq (bs : List Nat) : expandCrcRun bs = .crcInit :: (bs.map (BitVec.ofNat 8)).map Instr.crcByte := by
  rw [expandCrcRun, List.map_map]
  rfl

/-- CRC_CMP of an accumulator that holds `compute` of the bytes is `verify` (R68, R72). -/
theorem crcMatches_compute (msg : List Byte) (lo hi : Byte) : crcMatches (compute msg) lo hi = verify msg lo hi := by
  rw [crcMatches, verify, Bool.beq_comm, Bool.beq_comm (a := (compute msg).hi)]

/-- Settles O20: O19 for the line's bytes, and then the comparison. -/
theorem crcVerifyLineSetsCrcOk : Obligations.CrcVerifyLineSetsCrcOk := by
  intro s bs lo hi hwf
  have hrun := crcRunComputesTheChecksum s (bs.map (BitVec.ofNat 8))
  rw [← expandCrcRun_eq] at hrun
  exact ⟨_, if_pos hwf, _, execAll_append hrun, crcMatches_compute _ _ _, rfl, rfl⟩

end Sys2Proof.Machine
end

section
/-! PROOFS. The family of 40_checksum.md: the tables and the step (O11, O12), the engine against the bitwise CRC (O13), what
verification accepts and detects (O14, O15), and the test port's commands (O16-O18). -/

namespace Sys2Proof.Machine

open Sys2Proof

/-! ### The tables and the step -/

/-- Every entry of the two listings is the generator's value for its index, cut in two (R64). -/
theorem readTables_eq_genEntry (i : Byte) :
    readTLo i = (genEntry i).extractLsb' 0 8 ∧ readTHi i = (genEntry i).extractLsb' 8 8 := by
  have h : ∀ n : Fin 256, readTLo (BitVec.ofFin n) = (genEntry (BitVec.ofFin n)).extractLsb' 0 8 ∧
      readTHi (BitVec.ofFin n) = (genEntry (BitVec.ofFin n)).extractLsb' 8 8 := by decide +kernel
  exact h i.toFin

/-- Settles O11: the lengths, and the 256 indices. -/
theorem tablesAreTheGeneratorsOutput : Obligations.TablesAreTheGeneratorsOutput :=
  ⟨by decide +kernel, by decide +kernel, readTables_eq_genEntry⟩

/-- The two table bytes of an index, joined, are the generator's value. -/
theorem readTHi_append_readTLo (i : Byte) : (readTHi i ++ readTLo i : Half) = genEntry i := by
  obtain ⟨hlo, hhi⟩ := readTables_eq_genEntry i
  rw [hlo, hhi]
  exact (BitVec.extractLsb'_append_extractLsb'_eq_extractLsb' rfl).trans BitVec.extractLsb'_eq_self

/-- A byte widened to a register has an upper byte of 0. -/
theorem byte_setWidth_eq_append (b : Byte) : b.setWidth 16 = (0#8 ++ b : Half) :=
  BitVec.setWidth_eq_append (by decide)

/-- The bits of a register are those of its lower byte and then those of its upper byte. -/
theorem getLsbD_append_byte (hi lo : Byte) (i : Nat) :
    (hi ++ lo : Half).getLsbD i = if i < 8 then lo.getLsbD i else hi.getLsbD (i - 8) := BitVec.getLsbD_append

/-- A register shifted right by a byte is its upper byte alone. -/
theorem append_byte_ushiftRight (hi lo : Byte) : (hi ++ lo : Half) >>> 8 = (0#8 ++ hi : Half) := by
  rw [← byte_setWidth_eq_append]
  refine BitVec.eq_of_getLsbD_eq fun i hlt => ?_
  rw [BitVec.getLsbD_ushiftRight, getLsbD_append_byte, BitVec.getLsbD_setWidth]
  simp [hlt]

/-- The step on the two halves as one 16-bit register (R66). -/
theorem crcStep_register (a : CrcAcc) (b : Byte) :
    (crcStep a b).hi ++ (crcStep a b).lo =
      ((a.hi ++ a.lo : Half) >>> 8) ^^^ (readTHi (a.lo ^^^ b) ++ readTLo (a.lo ^^^ b) : Half) := by
  rw [append_byte_ushiftRight, BitVec.xor_append, BitVec.zero_xor, crcStep_eq]

/-- Settles O12: the definition's two halves, the register they form, and the rule's example. -/
theorem checksumStepIsTheCorrectedRecurrence : Obligations.ChecksumStepIsTheCorrectedRecurrence :=
  ⟨fun a b => ⟨rfl, rfl, crcStep_register a b⟩, by decide⟩

/-! ### The generator's shifts on a whole register -/

/-- A shift is linear: the polynomial is added exactly when one of the two low bits is set and the other is not. -/
theorem genShift_xor (c d : Half) : genShift (c ^^^ d) = genShift c ^^^ genShift d := by
  simp only [genShift, BitVec.getLsbD_xor, BitVec.ushiftRight_xor_distrib]
  generalize c >>> 1 = x, d >>> 1 = y
  cases c.getLsbD 0 <;> cases d.getLsbD 0
  · rfl
  · exact BitVec.xor_assoc x y _
  · show x ^^^ y ^^^ 0xA001 = x ^^^ 0xA001 ^^^ y
    ac_rfl
  · calc x ^^^ y = x ^^^ y ^^^ (0xA001 ^^^ 0xA001) := by rw [BitVec.xor_self, BitVec.xor_zero]
      _ = (x ^^^ 0xA001) ^^^ (y ^^^ 0xA001) := by ac_rfl

theorem repeat_genShift_xor (n : Nat) (c d : Half) :
    Nat.repeat genShift n (c ^^^ d) = Nat.repeat genShift n c ^^^ Nat.repeat genShift n d := by
  induction n with
  | zero => rfl
  | succ n ih => rw [Nat.repeat, ih, genShift_xor]; rfl

/-- While the bits shifted out are 0 the polynomial is never added. -/
theorem repeat_genShift_of_low_zero {n : Nat} {c : Half} (h : ∀ i < n, c.getLsbD i = false) :
    Nat.repeat genShift n c = c >>> n := by
  induction n with
  | zero => rfl
  | succ n ih =>
    have hlow : (c >>> n).getLsbD 0 = false := by rw [BitVec.getLsbD_ushiftRight]; exact h n (Nat.lt_succ_self n)
    rw [Nat.repeat, ih fun i hi => h i (Nat.lt_succ_of_lt hi), genShift, hlow]
    exact (BitVec.shiftRight_add c n 1).symm

/-- A byte is added into the lower half of a register (R65). -/
theorem append_xor_byte (hi lo b : Byte) : (hi ++ lo : Half) ^^^ b.setWidth 16 = (hi ++ (lo ^^^ b) : Half) := by
  rw [byte_setWidth_eq_append, BitVec.xor_append, BitVec.xor_zero]

/-- Eight shifts of a register: the upper byte moves down, and the lower byte indexes the table. -/
theorem repeat_genShift_append (hi lo : Byte) :
    Nat.repeat genShift 8 (hi ++ lo : Half) = (0#8 ++ hi : Half) ^^^ genEntry lo := by
  have hlow : ∀ i < 8, (hi ++ 0#8 : Half).getLsbD i = false := fun i hlt => by
    rw [getLsbD_append_byte, if_pos hlt, BitVec.getLsbD_zero]
  calc Nat.repeat genShift 8 (hi ++ lo : Half)
      = Nat.repeat genShift 8 ((hi ++ 0#8 : Half) ^^^ lo.setWidth 16) := by rw [append_xor_byte, BitVec.zero_xor]
    _ = (hi ++ 0#8 : Half) >>> 8 ^^^ genEntry lo := by
        rw [repeat_genShift_xor, repeat_genShift_of_low_zero hlow, genEntry]
    _ = (0#8 ++ hi : Half) ^^^ genEntry lo := by rw [append_byte_ushiftRight]

/-! ### The table engine and the bitwise CRC -/

/-- One byte of the table engine is one byte of the bitwise CRC. -/
theorem crcStep_eq_shifts (a : CrcAcc) (b : Byte) :
    ((crcStep a b).hi ++ (crcStep a b).lo : Half) = Nat.repeat genShift 8 ((a.hi ++ a.lo : Half) ^^^ b.setWidth 16) := by
  rw [append_xor_byte, repeat_genShift_append, ← readTHi_append_readTLo, ← append_byte_ushiftRight]
  exact crcStep_register a b

theorem crcRun_eq_shifts (a : CrcAcc) (msg : List Byte) :
    ((crcRun a msg).hi ++ (crcRun a msg).lo : Half) =
      msg.foldl (fun c b => Nat.repeat genShift 8 (c ^^^ b.setWidth 16)) (a.hi ++ a.lo) := by
  induction msg generalizing a with
  | nil => rfl
  | cons b msg ih => rw [crcRun_cons, ih, crcStep_eq_shifts, List.foldl_cons]

/-- Settles O13: induction over the message from the seed, and the check value. -/
theorem tableEngineEqualsBitwiseModbusCrc : Obligations.TableEngineEqualsBitwiseModbusCrc :=
  ⟨crcRun_eq_shifts crcSeed, by decide⟩

/-! ### What verification accepts and detects -/

theorem crcMatches_eq_decide (a : CrcAcc) (lo hi : Byte) : crcMatches a lo hi = decide (a.lo = lo ∧ a.hi = hi) :=
  (Bool.decide_and _ _).symm

/-- Settles O14: the two comparisons are equality of the pair. -/
theorem verifyAcceptsOnlyTheComputedPair : Obligations.VerifyAcceptsOnlyTheComputedPair := by
  intro msg lo hi
  rw [← crcMatches_compute, crcMatches_eq_decide, decide_eq_true_iff]
  cases compute msg
  rw [CrcAcc.mk.injEq]

/-- The step is reversible in the byte. -/
theorem crcStep_byte_injective (a : CrcAcc) : Function.Injective (crcStep a) := by
  intro b b' h
  have hidx : a.lo ^^^ b = a.lo ^^^ b' := readTHi_injective (congrArg CrcAcc.hi h)
  exact (BitVec.xor_right_inj _).mp hidx

/-- A run over any message is reversible in the accumulator. -/
theorem crcRun_injective (msg : List Byte) : Function.Injective (fun a => crcRun a msg) := by
  induction msg with
  | nil => exact Function.injective_id
  | cons b msg ih => exact ih.comp (crcStep_injective b)

/-- Messages that differ in one byte have different checksums. -/
theorem compute_ne_of_byte_ne (before after : List Byte) {b b' : Byte} (h : b ≠ b') :
    compute (before ++ b :: after) ≠ compute (before ++ b' :: after) := by
  rw [compute, compute, crcRun_append, crcRun_append]
  exact fun heq => h (crcStep_byte_injective _ (crcRun_injective after heq))

/-- Settles O15: both messages verifying would give them one checksum. -/
theorem everyOneByteCorruptionIsDetected : Obligations.EveryOneByteCorruptionIsDetected := by
  intro before after b b' lo hi hne hv
  rw [verifyAcceptsOnlyTheComputedPair] at hv
  refine Bool.eq_false_iff.mpr fun hv' => compute_ne_of_byte_ne before after hne ?_
  rw [verifyAcceptsOnlyTheComputedPair] at hv'
  exact hv.trans hv'.symm

/-! ### The test port's commands -/

/-- Settles O16: the state CRC_INIT goes to, with the seed of R65 written out. -/
theorem crcInitReseedsTheAccumulator : Obligations.CrcInitReseedsTheAccumulator := fun _ => rfl

/-- Settles O17: the state CRC_BYTE goes to, with the step of R66 written out. -/
theorem crcByteTakesOneStep : Obligations.CrcByteTakesOneStep := fun _ _ => rfl

/-- Settles O18: the state CRC_CMP goes to, with the comparison as one proposition. -/
theorem crcCmpWritesOnlyCrcOk : Obligations.CrcCmpWritesOnlyCrcOk := fun s lo hi =>
  congrArg (fun ok => Host.Outcome.next (s.setCrcOk ok)) (crcMatches_eq_decide s.crcAcc lo hi)

end Sys2Proof.Machine
end

section
/-! PROOFS. The family of 41_frame_assembler.md: the append (O24, O25), the cycle end and the overflow guard (O29, O27), the fill
(O28), completion under the invariant (O47), and runs of commands (O26, O42, O43, O44). -/

namespace Sys2Proof.Machine

open Sys2Proof

/-! ### The append -/

theorem stored_read?_same (s : State) (b : Byte) : (stored s b).frame.read? s.count.toNat = some b :=
  Memory.read?_write_same s.frame s.count.toNat b

theorem stored_read?_other (s : State) (b : Byte) {a : Nat} (ha : a ≠ s.count.toNat) :
    (stored s b).frame.read? a = s.frame.read? a := Memory.read?_write_other s.frame b ha

/-- Settles O24: the state after the append, field by field. -/
theorem appendStoresAtTheFillPosition : Obligations.AppendStoresAtTheFillPosition := fun s b hc =>
  ⟨stored s b, append_inside b hc, stored_read?_same s b, fun _ => stored_read?_other s b, count_succ_toNat hc, rfl⟩

/-- Settles O25: with room to spare an RXBYTE is the append alone, and the `COUNT` it leaves is in 1..24. -/
theorem rxbyteBeforeTheLastOnlyStores : Obligations.RxbyteBeforeTheLastOnlyStores := by
  intro s b hc
  have hcount : (stored s b).count.toNat = s.count.toNat + 1 := count_succ_toNat (Nat.lt_succ_of_lt hc)
  have hstate : asmState (stored s b).count false = some .accumulating :=
    (asmState_accumulating_iff _ _).mpr ⟨by omega, by omega⟩
  exact ⟨stored s b, execRxbyte_store b hc, stored_read?_same s b, fun _ => stored_read?_other s b, hcount, hstate, rfl⟩

/-! ### The cycle end and the overflow guard -/

/-- Settles O29: the fields of a cycle end, put together. -/
theorem cycleEndIsTheCommonRecovery : Obligations.CycleEndIsTheCommonRecovery := fun s r =>
  State.eq_of_fields (cycleEnd_cfg s r) (cycleEnd_frame s r) (cycleEnd_count s r) (cycleEnd_rd s r) (cycleEnd_lastErr s r)
    (cycleEnd_crcAcc s r) (cycleEnd_crcOk s r) (cycleEnd_inbox s r) (cycleEnd_events s r)

/-- Settles O27: the guard is a cycle end with `OVERFLOW` and no append before it. -/
theorem overflowGuardRecovers : Obligations.OverflowGuardRecovers := fun s b hc =>
  (execRxbyte_overflow b hc).trans (congrArg Host.Outcome.next (cycleEndIsTheCommonRecovery s (.err .overflow)))

/-- DECODE's write and then the cycle end leave in `RD` what the result says (R79, R94). -/
theorem cycleEnd_writeDecoded_rd (s : State) (r : CycleResult) :
    (cycleEnd (writeDecoded s r) r).rd = readingAfter s.cfg s.rd r := by
  cases r with
  | ok snap => exact cycleEnd_writeDecoded_ok_rd s snap
  | err e => exact cycleEnd_rd s (.err e)

/-! ### The fill -/

/-- The RXBYTE that fills the frame completes with the result of the bytes FRAME then holds (R78). -/
theorem execRxbyte_fill_holds {s : State} {b : Byte} {bs : List Byte} (hc : s.count.toNat = 24) (hlen : bs.length = 25)
    (h : FrameHolds (stored s b) bs) :
    execRxbyte b s =
      .next (cycleEnd (writeDecoded (stored s b) (responseOf s.cfg bs)) (responseOf s.cfg bs)) := by
  rw [execRxbyte_fill b hc, decodeFrame_holds hlen h]
  rfl

/-- Settles O28: the 24 bytes and the appended one are a written frame, which DECODE answers. -/
theorem fillingTheFrameDecodesAndResets : Obligations.FillingTheFrameDecodesAndResets := by
  intro s b hc hwritten
  have hc' : s.count.toNat = 24 := congrArg BitVec.toNat hc
  obtain ⟨bs, hlen, hbs⟩ := frameWritten_holds (stored_frameWritten b hc' (by rwa [hc']))
  exact ⟨stored s b, responseOf s.cfg bs, append_inside b (by rw [hc']; decide), decodeFrame_holds hlen hbs,
    execRxbyte_fill_holds hc' hlen hbs, cycleEnd_count _ _⟩

/-! ### Completion under the invariant -/

/-- Settles O47: a command answers next under the invariant, and keeps it. -/
theorem everyCommandCompletesUnderTheInvariant : Obligations.EveryCommandCompletesUnderTheInvariant := by
  intro s i hs
  obtain ⟨t, he⟩ := exec_next_of_inv hs i
  exact ⟨t, he, exec_keeps_inv hs he⟩

/-! ### The bytes received since the last cycle end -/

/-- The bytes `bs` are the frame so far: `COUNT` is their number, below `CAP`, and FRAME holds them from index 0 (R15, R16). Stale
bytes may stand behind them. -/
structure Pending (s : State) (bs : List Byte) : Prop where
  count : s.count.toNat = bs.length
  room : bs.length < 25
  bytes : FrameHolds s bs

/-- At `COUNT = 0` no byte is pending, whatever FRAME holds. -/
theorem Pending.of_count_zero {s : State} (h : s.count = 0) : Pending s [] :=
  ⟨congrArg BitVec.toNat h, by decide, nofun⟩

/-- What is pending depends on FRAME and `COUNT` only. -/
theorem Pending.of_same_frame_path {s t : State} {bs : List Byte} (hs : Pending s bs) (hframe : t.frame = s.frame)
    (hcount : t.count = s.count) : Pending t bs := by
  obtain ⟨hc, hroom, hbytes⟩ := hs
  exact ⟨hcount ▸ hc, hroom, fun i hi => by rw [hframe]; exact hbytes i hi⟩

/-- The byte appended joins the end of the pending ones. -/
theorem Pending.frameHolds_stored {s : State} {bs : List Byte} (hs : Pending s bs) (b : Byte) :
    FrameHolds (stored s b) (bs ++ [b]) := by
  obtain ⟨hcount, -, hbytes⟩ := hs
  intro i hi
  rw [List.length_append, List.length_singleton] at hi
  by_cases hib : i < bs.length
  · rw [stored_read?_other s b (by omega), List.getElem_append_left hib]
    exact hbytes i hib
  · obtain rfl : i = bs.length := by omega
    rw [List.getElem_concat_length rfl, ← hcount, stored_read?_same]

theorem Pending.stored_concat {s : State} {bs : List Byte} (hs : Pending s bs) (b : Byte) (hroom : bs.length < 24) :
    Pending (stored s b) (bs ++ [b]) where
  count := by
    rw [stored_count, count_succ_toNat (by rw [hs.count]; exact hs.room), hs.count, List.length_append, List.length_singleton]
  room := by rw [List.length_append, List.length_singleton]; omega
  bytes := hs.frameHolds_stored b

/-- The RXBYTE behind 24 pending bytes ends the cycle with the result of the 25 (R78, R84). -/
theorem Pending.execRxbyte_last {s : State} {bs : List Byte} (hs : Pending s bs) (b : Byte) (hlen : bs.length = 24) :
    execRxbyte b s = .next (cycleEnd (writeDecoded (stored s b) (responseOf s.cfg (bs ++ [b])))
      (responseOf s.cfg (bs ++ [b]))) :=
  execRxbyte_fill_holds (hs.count.trans hlen) (by simp [hlen]) (hs.frameHolds_stored b)

/-! ### Runs of RXBYTEs -/

/-- A run goes on from the next state of its first command. -/
theorem execAll_cons_next {i : Instr} {s t : State} (h : exec i s = .next t) (is : List Instr) :
    execAll (i :: is) s = execAll is t := by rw [execAll, h]

theorem rxFrame_concat (cs : List Byte) (b : Byte) : rxFrame (cs ++ [b]) = rxFrame cs ++ [.rxbyte b] := List.map_append

/-- Bytes that leave the frame short of 25 are stored: of the state only FRAME and `COUNT` change (R76). -/
theorem execAll_rxFrame_stores (cs : List Byte) : ∀ {s : State} {bs : List Byte}, Pending s bs → bs.length + cs.length ≤ 24 →
    ∃ m n, execAll (rxFrame cs) s = .next ((s.setFrame m).setCount n) ∧ Pending ((s.setFrame m).setCount n) (bs ++ cs) := by
  induction cs with
  | nil => exact fun {s bs} hs _ => ⟨s.frame, s.count, rfl, by rwa [List.append_nil]⟩
  | cons c cs ih =>
    intro s bs hs hlen
    rw [List.length_cons] at hlen
    have hexec : exec (.rxbyte c) s = .next (stored s c) := execRxbyte_store c (by rw [hs.count]; omega)
    obtain ⟨m, n, hrun, hend⟩ := ih (hs.stored_concat c (by omega)) (by rw [List.length_append, List.length_singleton]; omega)
    exact ⟨m, n, (execAll_cons_next hexec _).trans hrun, by rwa [List.append_cons]⟩

/-- Settles O26: from `COUNT = 0` the bytes are only stored. -/
theorem twentyFourBytesNeverDecode : Obligations.TwentyFourBytesNeverDecode := by
  intro s bs hc hlen
  obtain ⟨m, n, hrun, hend⟩ := execAll_rxFrame_stores bs (.of_count_zero hc) (by rwa [List.length_nil, Nat.zero_add])
  exact ⟨_, hrun, rfl, rfl, rfl, hend.count, hend.bytes⟩

/-- Settles O42: 24 bytes are stored, and the last one ends the cycle with the result of them all. -/
theorem twentyFiveBytesMakeOneCycle : Obligations.TwentyFiveBytesMakeOneCycle := by
  intro s bs hc hlen
  obtain rfl | ⟨cs, b, rfl⟩ := bs.eq_nil_or_concat'
  · cases hlen
  have hcs : cs.length = 24 := by simpa using hlen
  obtain ⟨m, n, hrun, hend⟩ := execAll_rxFrame_stores cs (.of_count_zero hc) (by simp [hcs])
  rw [List.nil_append] at hend
  have hlast : exec (.rxbyte b) _ = .next _ := hend.execRxbyte_last b hcs
  have hall := (execAll_append hrun).trans (execAll_cons_next hlast [])
  rw [← rxFrame_concat] at hall
  refine ⟨_, hall, ?_, cycleEnd_count _ _, cycleEnd_lastErr _ _, cycleEnd_writeDecoded_rd _ _, ?_, ?_⟩
  · rw [cycleEnd_events, writeDecoded_events]
    rfl
  · rw [FrameHolds, cycleEnd_frame, writeDecoded_frame]
    exact hend.frameHolds_stored b
  · simp

/-! ### Runs of any commands -/

/-- The bytes pending after a command: an RXBYTE adds its own, and the 25th ends the cycle. -/
def pendingAfter (bs : List Byte) : Instr → List Byte
  | .rxbyte b => if bs.length = 24 then [] else bs ++ [b]
  | .sendreq | .crcInit | .crcByte _ | .crcCmp _ _ => bs

/-- The events of a command, by the configuration and the pending bytes alone (R109). -/
def emittedBy (cfg : Config) (bs : List Byte) : Instr → List Event
  | .rxbyte b => if bs.length = 24 then [.cycle (responseOf cfg (bs ++ [b])), .reqNext] else []
  | .sendreq => [.tx (requestFrame cfg)]
  | .crcInit | .crcByte _ | .crcCmp _ _ => []

/-- The events of a run of commands, by the configuration and the pending bytes alone. -/
def emittedOver (cfg : Config) : List Byte → List Instr → List Event
  | _, [] => []
  | bs, i :: is => emittedBy cfg bs i ++ emittedOver cfg (pendingAfter bs i) is

/-- RXBYTE follows the pending bytes: it stores while there is room, and the 25th byte ends the cycle. -/
theorem execRxbyte_pending {s : State} {bs : List Byte} (hs : Pending s bs) (b : Byte) :
    ∃ t, execRxbyte b s = .next t ∧ Pending t (pendingAfter bs (.rxbyte b)) ∧
      t.events = s.events ++ emittedBy s.cfg bs (.rxbyte b) := by
  by_cases hlen : bs.length = 24
  · refine ⟨_, hs.execRxbyte_last b hlen, ?_, ?_⟩
    · rw [pendingAfter, if_pos hlen]
      exact .of_count_zero (cycleEnd_count _ _)
    · rw [emittedBy, if_pos hlen, cycleEnd_events, writeDecoded_events, stored_events]
  · have hroom : bs.length < 24 := by have := hs.room; omega
    refine ⟨stored s b, execRxbyte_store b (by rwa [hs.count]), ?_, ?_⟩
    · rw [pendingAfter, if_neg hlen]
      exact hs.stored_concat b hroom
    · rw [emittedBy, if_neg hlen, List.append_nil, stored_events]

/-- Every command completes, and what it emits and leaves pending follows from the configuration and the pending bytes. -/
theorem exec_pending {s : State} {bs : List Byte} (hs : Pending s bs) (i : Instr) :
    ∃ t, exec i s = .next t ∧ Pending t (pendingAfter bs i) ∧ t.events = s.events ++ emittedBy s.cfg bs i := by
  cases i with
  | rxbyte b => exact execRxbyte_pending hs b
  | sendreq => exact ⟨_, rfl, hs.of_same_frame_path rfl rfl, rfl⟩
  | crcInit | crcByte | crcCmp => exact ⟨_, rfl, hs.of_same_frame_path rfl rfl, (List.append_nil s.events).symm⟩

/-- The same of every run of commands. -/
theorem execAll_pending (is : List Instr) : ∀ {s : State} {bs : List Byte}, Pending s bs →
    ∃ t, execAll is s = .next t ∧ Pending t (is.foldl pendingAfter bs) ∧ t.events = s.events ++ emittedOver s.cfg bs is := by
  induction is with
  | nil => exact fun {s bs} hs => ⟨s, rfl, hs, (List.append_nil s.events).symm⟩
  | cons i is ih =>
    intro s bs hs
    obtain ⟨u, hexec, hu, hevents⟩ := exec_pending hs i
    obtain ⟨t, hrun, ht, hmore⟩ := ih hu
    refine ⟨t, (execAll_cons_next hexec is).trans hrun, ht, ?_⟩
    rw [hmore, hevents, exec_keeps_cfg hexec, List.append_assoc]
    rfl

/-- Settles O43: both runs start with no byte pending, and nothing else of a state but its configuration is seen. -/
theorem afterACycleTheBlockActsAsFresh : Obligations.AfterACycleTheBlockActsAsFresh := by
  intro s s' is hcfg hc hc'
  obtain ⟨t, hrun, ht, hevents⟩ := execAll_pending is (.of_count_zero hc)
  obtain ⟨t', hrun', ht', hevents'⟩ := execAll_pending is (.of_count_zero hc')
  refine ⟨emittedOver s.cfg [] is, t, t', hrun, hrun', hevents, ?_, BitVec.eq_of_toNat_eq (ht.count.trans ht'.count.symm)⟩
  rw [hevents', hcfg]

/-- An RXBYTE moves the number of pending bytes on by one, modulo 25, and no other command moves it. -/
theorem pendingAfter_length {bs : List Byte} (h : bs.length < 25) (i : Instr) :
    (pendingAfter bs i).length = (bs.length + if isRxbyte i then 1 else 0) % 25 := by
  cases i with
  | rxbyte b =>
    have hr : isRxbyte (.rxbyte b) = true := rfl
    rw [hr, if_pos rfl, pendingAfter]
    split
    · next hlen => rw [hlen]; rfl
    · rw [List.length_append, List.length_singleton]; omega
  | sendreq | crcInit | crcByte | crcCmp => exact (Nat.mod_eq_of_lt h).symm

theorem foldl_pendingAfter_length (is : List Instr) : ∀ {bs : List Byte}, bs.length < 25 →
    (is.foldl pendingAfter bs).length = (bs.length + is.countP isRxbyte) % 25 := by
  induction is with
  | nil => exact fun h => (Nat.mod_eq_of_lt h).symm
  | cons i is ih =>
    intro bs h
    have hlen := pendingAfter_length h i
    rw [List.foldl_cons, ih (by omega), hlen, List.countP_cons, Nat.mod_add_mod]
    congr 1
    omega

/-- Settles O44: from reset no byte is pending, and `COUNT` is the number pending at the end. -/
theorem countIsRxbytesModuloTwentyFive : Obligations.CountIsRxbytesModuloTwentyFive := by
  intro cfg is
  obtain ⟨t, hrun, ht, -⟩ := execAll_pending is (Pending.of_count_zero (State.resetWith_count cfg))
  refine ⟨t, hrun, ht.count.trans ?_⟩
  rw [foldl_pendingAfter_length is (by decide), List.length_nil, Nat.zero_add]

end Sys2Proof.Machine
end

section
/-! PROOFS. The family of 42_response_decoder.md: what decides each result of DECODE (O33-O36), DECODE as a function of the frame's
bytes (O38), the layout of a reading (O37), DECODE's write (O39), the bytes it does not read (O40) and R97's frame (O41). -/

namespace Sys2Proof.Machine

open Sys2Proof

/-! ### The checks and the results they decide -/

theorem bytesAddressed_iff (cfg : Config) (bs : List Byte) :
    bytesAddressed cfg bs = true ↔ byteAt bs 0 = cfg.devAddr ∧ byteAt bs 1 = 0x04 := by
  rw [bytesAddressed, Bool.and_eq_true, beq_iff_eq, beq_iff_eq]

theorem bytesVerified_iff (bs : List Byte) :
    bytesVerified bs = true ↔ compute (bs.take 23) = { lo := byteAt bs 23, hi := byteAt bs 24 } :=
  verifyAcceptsOnlyTheComputedPair _ _ _

/-- The four results, each under the checks before it and its own (R85). -/
theorem responseOf_cases (cfg : Config) (bs : List Byte) :
    (bytesAddressed cfg bs = false ∧ responseOf cfg bs = .err .badResponse) ∨
      (bytesAddressed cfg bs = true ∧ bytesVerified bs = false ∧ responseOf cfg bs = .err .badChecksum) ∨
      (bytesAddressed cfg bs = true ∧ bytesVerified bs = true ∧ cfg.maxDet.val < (byteAt bs 10).toNat ∧
        responseOf cfg bs = .err .tooManyDetections) ∨
      (bytesAddressed cfg bs = true ∧ bytesVerified bs = true ∧ (byteAt bs 10).toNat ≤ cfg.maxDet.val ∧
        responseOf cfg bs = .ok (readingOf cfg bs)) := by
  unfold responseOf
  cases bytesAddressed cfg bs with
  | false => exact .inl ⟨rfl, rfl⟩
  | true =>
    cases bytesVerified bs with
    | false => exact .inr (.inl ⟨rfl, rfl, rfl⟩)
    | true =>
      by_cases hn : cfg.maxDet.val < (byteAt bs 10).toNat
      · exact .inr (.inr (.inl ⟨rfl, rfl, hn, if_pos hn⟩))
      · exact .inr (.inr (.inr ⟨rfl, rfl, not_lt.mp hn, if_neg hn⟩))

theorem responseOf_badResponse_iff (cfg : Config) (bs : List Byte) :
    responseOf cfg bs = .err .badResponse ↔ ¬bytesAddressed cfg bs = true := by
  obtain ⟨ha, hr⟩ | ⟨ha, -, hr⟩ | ⟨ha, -, -, hr⟩ | ⟨ha, -, -, hr⟩ := responseOf_cases cfg bs <;> simp [ha, hr]

theorem responseOf_badChecksum_iff {cfg : Config} {bs : List Byte} (ha : bytesAddressed cfg bs = true) :
    responseOf cfg bs = .err .badChecksum ↔ ¬bytesVerified bs = true := by
  obtain ⟨ha', -⟩ | ⟨-, hv, hr⟩ | ⟨-, hv, -, hr⟩ | ⟨-, hv, -, hr⟩ := responseOf_cases cfg bs
  · rw [ha] at ha'; cases ha'
  all_goals simp [hv, hr]

theorem responseOf_tooManyDetections_iff {cfg : Config} {bs : List Byte} (ha : bytesAddressed cfg bs = true)
    (hv : bytesVerified bs = true) : responseOf cfg bs = .err .tooManyDetections ↔ cfg.maxDet.val < (byteAt bs 10).toNat := by
  obtain ⟨ha', -⟩ | ⟨-, hv', -⟩ | ⟨-, -, hn, hr⟩ | ⟨-, -, hn, hr⟩ := responseOf_cases cfg bs
  · rw [ha] at ha'; cases ha'
  · rw [hv] at hv'; cases hv'
  · simp [hn, hr]
  · simp [hn, hr]

/-- A frame is read exactly when it passes every check, and then as `readingOf` says. -/
theorem responseOf_ok_iff (cfg : Config) (bs : List Byte) (snap : Reading) :
    responseOf cfg bs = .ok snap ↔ bytesAddressed cfg bs = true ∧ bytesVerified bs = true ∧
      (byteAt bs 10).toNat ≤ cfg.maxDet.val ∧ readingOf cfg bs = snap := by
  obtain ⟨ha, hr⟩ | ⟨-, hv, hr⟩ | ⟨-, -, hn, hr⟩ | ⟨ha, hv, hn, hr⟩ := responseOf_cases cfg bs
  · simp [ha, hr]
  · simp [hv, hr]
  · simp [hn, hr]
  · simp [ha, hv, hn, hr]

/-- What DECODE answers on a fully written frame is what the frame's bytes decide. -/
theorem decodeFrame_eq_iff {s : State} {bs : List Byte} (hlen : bs.length = 25) (h : FrameHolds s bs) (r : CycleResult) :
    decodeFrame s 25 = .ok r ↔ responseOf s.cfg bs = r := by
  rw [decodeFrame_holds hlen h, Except.ok.injEq]

/-- Settles O38: each part of DECODE answers what the bytes say. -/
theorem decodeRefinesTheFrameBytes : Obligations.DecodeRefinesTheFrameBytes := fun _ _ hlen h => decodeFrame_holds hlen h

/-- Settles O33: check 1 comes before every read of FRAME. -/
theorem wrongLengthIsBadResponse : Obligations.WrongLengthIsBadResponse := fun _ _ hlen => if_pos hlen

/-- Settles O34: `BAD_RESPONSE` is the result exactly when check 2 fails. -/
theorem addressAndFunctionDecideBadResponse : Obligations.AddressAndFunctionDecideBadResponse := by
  intro s bs hlen h
  rw [decodeFrame_eq_iff hlen h, responseOf_badResponse_iff, bytesAddressed_iff, not_and_or]

/-- Settles O35: past check 2 the checksum decides, and DECODE reads FRAME and the configuration only. -/
theorem checksumOfTheFrameDecidesBadChecksum : Obligations.ChecksumOfTheFrameDecidesBadChecksum := by
  intro s bs hlen h hdev hfunc
  refine ⟨?_, fun a ok => decodeFrame_congr (s := { s with crcAcc := a, crcOk := ok }) (t := s) rfl rfl 25⟩
  rw [decodeFrame_eq_iff hlen h, responseOf_badChecksum_iff ((bytesAddressed_iff _ _).mpr ⟨hdev, hfunc⟩), bytesVerified_iff]

/-- Settles O36: past check 3 two results are left, and the comparison of the count with `MAX_DET` picks one. -/
theorem countAboveCapacityIsAnError : Obligations.CountAboveCapacityIsAnError := by
  intro s bs hlen h ha hv
  simp only [decodeFrame_eq_iff hlen h]
  exact ⟨(responseOf_tooManyDetections_iff ha hv).mpr,
    fun hn => ⟨readingOf s.cfg bs, (responseOf_ok_iff _ _ _).mpr ⟨ha, hv, hn, rfl⟩, rfl⟩⟩

/-! ### The layout of a reading -/

/-- `(a : b)` of two bytes is `a*256 + b` (R9). -/
theorem toNat_append_byte (a b : Byte) : (a ++ b : Half).toNat = a.toNat * 256 + b.toNat := by
  rw [BitVec.toNat_append, ← Nat.shiftLeft_add_eq_or_of_lt b.isLt, Nat.shiftLeft_eq]

/-- The four bytes of a word, read back from their concatenation (R9), as the fields of a command word are. -/
theorem extractLsb'_append_bytes (a b c d : Byte) :
    (a ++ b ++ c ++ d : Word).extractLsb' 24 8 = a ∧ (a ++ b ++ c ++ d : Word).extractLsb' 16 8 = b ∧
      (a ++ b ++ c ++ d : Word).extractLsb' 8 8 = c ∧ (a ++ b ++ c ++ d : Word).extractLsb' 0 8 = d := by
  simpa only [cmdWordOf, wordOf, CmdWord.mk.injEq] using cmdWordOf_wordOf ⟨a, b, c, d⟩

theorem detectionOf_below {bs : List Byte} {k : Nat} (h : k < (byteAt bs 10).toNat) : detectionOf bs k =
    { dist := byteAt bs (11 + 4 * k) ++ byteAt bs (12 + 4 * k)
      amp := byteAt bs (13 + 4 * k) ++ byteAt bs (14 + 4 * k) } := if_pos h

theorem detectionOf_beyond {bs : List Byte} {k : Nat} (h : (byteAt bs 10).toNat ≤ k) :
    detectionOf bs k = { dist := 0, amp := 0 } := if_neg (not_lt.mpr h)

theorem readingOf_det_length (cfg : Config) (bs : List Byte) : (readingOf cfg bs).det.length = cfg.maxDet.val := by
  simp [readingOf]

theorem readingOf_det_getElem (cfg : Config) (bs : List Byte) (k : Nat) (h : k < (readingOf cfg bs).det.length) :
    (readingOf cfg bs).det[k] = detectionOf bs k := by
  simp [readingOf]

/-- Settles O37: the reading of a frame that passes every check, field by field. -/
theorem extractedFieldsFollowTheLayout : Obligations.ExtractedFieldsFollowTheLayout := by
  intro s bs snap hlen h hd
  obtain ⟨-, -, hn, rfl⟩ := (responseOf_ok_iff _ _ _).mp ((decodeFrame_eq_iff hlen h _).mp hd)
  obtain ⟨h24, h16, h8, h0⟩ := extractLsb'_append_bytes (byteAt bs 5) (byteAt bs 6) (byteAt bs 3) (byteAt bs 4)
  refine ⟨(interleave_eq_append _ _ _ _).symm, h24, h16, h8, h0, toNat_append_byte _ _, rfl, hn, readingOf_det_length _ _,
    fun k hk => ?_⟩
  rw [readingOf_det_getElem]
  refine ⟨fun hbelow => ?_, detectionOf_beyond⟩
  rw [detectionOf_below hbelow]
  exact ⟨toNat_append_byte _ _, toNat_append_byte _ _⟩

/-! ### DECODE's write -/

/-- Settles O39: the write by the two kinds of result, and what the cycle end leaves of it. -/
theorem decodeWritesAllOfTheReadingOrNone : Obligations.DecodeWritesAllOfTheReadingOrNone := fun s =>
  ⟨fun _ => rfl, fun _ => rfl, cycleEnd_writeDecoded_rd s⟩

/-! ### The bytes DECODE does not read -/

/-- The frames agree on every byte that checks 2 and 4 and the extraction read: below the checksum, all but bytes 2 and 9 and the
records beyond the count (R95). -/
def AgreeWhereRead (bs bs' : List Byte) : Prop :=
  ∀ i, i < 23 → i ≠ 2 → i ≠ 9 → i < 11 + 4 * (byteAt bs 10).toNat → byteAt bs' i = byteAt bs i

/-- The bytes in front of the records are read whatever the count is. -/
theorem AgreeWhereRead.head {bs bs' : List Byte} (h : AgreeWhereRead bs bs') {i : Nat} (hi : i < 11) (h2 : i ≠ 2) (h9 : i ≠ 9) :
    byteAt bs' i = byteAt bs i := h i (by omega) h2 h9 (by omega)

theorem AgreeWhereRead.count {bs bs' : List Byte} (h : AgreeWhereRead bs bs') : byteAt bs' 10 = byteAt bs 10 :=
  h.head (by decide) (by decide) (by decide)

theorem AgreeWhereRead.bytesAddressed_eq {bs bs' : List Byte} (h : AgreeWhereRead bs bs') (cfg : Config) :
    bytesAddressed cfg bs' = bytesAddressed cfg bs := by
  have h0 : byteAt bs' 0 = byteAt bs 0 := h.head (by decide) (by decide) (by decide)
  have h1 : byteAt bs' 1 = byteAt bs 1 := h.head (by decide) (by decide) (by decide)
  rw [bytesAddressed, bytesAddressed, h0, h1]

/-- A record below the count is read and agrees; one beyond it is (0, 0) in both. -/
theorem AgreeWhereRead.detectionOf_eq {bs bs' : List Byte} (h : AgreeWhereRead bs bs') {k : Nat} (hk : k < 3) :
    detectionOf bs' k = detectionOf bs k := by
  have hcount : byteAt bs' 10 = byteAt bs 10 := h.count
  obtain hbelow | hbeyond := lt_or_ge k (byteAt bs 10).toNat
  · have hrec : ∀ j < 4, byteAt bs' (11 + j + 4 * k) = byteAt bs (11 + j + 4 * k) := fun j hj =>
      h _ (by omega) (by omega) (by omega) (by omega)
    rw [detectionOf_below hbelow, detectionOf_below (hcount ▸ hbelow), hrec 0 (by decide), hrec 1 (by decide), hrec 2 (by decide),
      hrec 3 (by decide)]
  · rw [detectionOf_beyond hbeyond, detectionOf_beyond (hcount ▸ hbeyond)]

theorem AgreeWhereRead.readingOf_eq {bs bs' : List Byte} (h : AgreeWhereRead bs bs') (cfg : Config) :
    readingOf cfg bs' = readingOf cfg bs := by
  have hdet : ∀ k ∈ List.range cfg.maxDet.val, detectionOf bs' k = detectionOf bs k := fun k hk =>
    h.detectionOf_eq (by have := List.mem_range.mp hk; have := cfg.maxDet.isLt; omega)
  have hhead : ∀ {i}, i < 11 → i ≠ 2 → i ≠ 9 → byteAt bs' i = byteAt bs i := h.head
  simp [readingOf, List.map_congr_left hdet, hhead]

/-- Settles O40: with both checksums good, every check and every field of the reading is decided by bytes the frames share. -/
theorem unusedBytesDoNotMatter : Obligations.UnusedBytesDoNotMatter := by
  rintro cfg bs bs' hlen hlen' hv hv' hagree s s' rfl hcfg hs hs'
  have h : AgreeWhereRead bs bs' := hagree
  rw [decodeFrame_holds hlen hs, decodeFrame_holds hlen' hs', hcfg, responseOf, responseOf, h.bytesAddressed_eq, h.readingOf_eq,
    h.count, hv, hv']

/-! ### R97's example -/

/-- The frame of R97. -/
def exampleFrame : List Byte :=
  [0x01, 0x04, 0x00, 0x14, 0x00, 0x00, 0x19, 0x80, 0x00, 0x00, 0x01, 0x00, 0x64, 0x00, 0x80, 0x00, 0x00, 0x00, 0x00, 0x00, 0x00,
    0x00, 0x00, 0xC3, 0xC2]

/-- The reading R97 lists for it. -/
def exampleReading : Reading :=
  { ts := 0x00191400
    temp := 0x8000
    ndet := 1
    det := [{ dist := 100, amp := 0x0080 }, { dist := 0, amp := 0 }, { dist := 0, amp := 0 }] }

/-- The checksum of bytes 0..22, by way of the accumulator after the first 12. -/
theorem compute_exampleFrame : compute (exampleFrame.take 23) = { lo := 0xC3, hi := 0xC2 } := by
  have hhead : crcRun crcSeed (exampleFrame.take 12) = { lo := 0x71, hi := 0xB6 } := by decide
  have hsplit : exampleFrame.take 23 = exampleFrame.take 12 ++ (exampleFrame.drop 12).take 11 := rfl
  rw [compute, hsplit, crcRun_append, hhead]
  decide

/-- The frame passes every check, and its fields are R97's. -/
theorem responseOf_exampleFrame : responseOf { devAddr := 0x01, maxDet := 3 } exampleFrame = .ok exampleReading :=
  (responseOf_ok_iff _ _ _).mpr ⟨by decide, (bytesVerified_iff _).mpr compute_exampleFrame, by decide, by decide⟩

/-- Settles O41: from reset the 25 bytes make one cycle, whose result is R97's reading. -/
theorem exampleFrameDecodes : Obligations.ExampleFrameDecodes := by
  obtain ⟨t, hrun, hevents, hcount, herr, hrd, -⟩ :=
    twentyFiveBytesMakeOneCycle (State.resetWith { devAddr := 0x01, maxDet := 3 }) exampleFrame rfl rfl
  rw [State.resetWith_cfg, responseOf_exampleFrame] at hevents herr hrd
  exact ⟨t, hrun, hevents, congrArg Reading.ts hrd, congrArg Reading.temp hrd, herr, hcount⟩

end Sys2Proof.Machine
end

section
/-! PROOFS. The family of 43_request_builder.md: the one event SENDREQ emits (O21, O22), and the sample frames of R102 (O23). -/

namespace Sys2Proof.Machine

open Sys2Proof

/-- SENDREQ from every state (R98): the request frame is a function of the configuration alone. -/
theorem exec_sendreq (s : State) : exec .sendreq s = .next (s.emit (.tx (requestFrame s.cfg))) := rfl

/-- Settles O21: the emitted frame, with its eight bytes written out. -/
theorem sendreqEmitsTheRequestFrame : Obligations.SendreqEmitsTheRequestFrame := exec_sendreq

/-- Settles O22: the event is the configuration's request frame. -/
theorem sendreqReadsAndWritesNoState : Obligations.SendreqReadsAndWritesNoState := by
  refine fun cfg => ⟨.tx (requestFrame cfg), ?_⟩
  rintro s rfl
  exact exec_sendreq s

/-- `MAX_DET` does not enter the request (R99). -/
theorem requestFrame_congr {cfg cfg' : Config} (h : cfg.devAddr = cfg'.devAddr) : requestFrame cfg = requestFrame cfg' := by
  simp only [requestFrame, requestHead, h]

/-- Settles O23: the frame is decided by the address, and the six are computed. -/
theorem sampleRequestFrames : Obligations.SampleRequestFrames := by
  intro p hp
  suffices hframe : requestFrame { devAddr := p.1, maxDet := 3 } = p.2 by
    intro s hs
    have haddr : requestFrame s.cfg = requestFrame { devAddr := p.1, maxDet := 3 } := requestFrame_congr hs
    rw [exec_sendreq, haddr, hframe, State.emit]
  revert p
  decide

end Sys2Proof.Machine
end

section
/-! PROOFS. The family of 60_exceptions.md: the events of each step (O54), DECODE's errors and `OVERFLOW` (O55), and the state held
while nothing is issued (O8). -/

namespace Sys2Proof.Machine

open Sys2Proof

/-- Settles O8: a step with an empty inbox takes no input. -/
theorem stateIsHeldWhileNothingIsIssued : Obligations.StateIsHeldWhileNothingIsIssued := fun _ => step_idle

/-! ### The results of DECODE -/

/-- A computation that ends well had a first part that ended well. -/
theorem except_bind_eq_ok {α β : Type} {x : Except Fault α} {f : α → Except Fault β} {b : β} (h : x >>= f = .ok b) :
    ∃ a, x = .ok a ∧ f a = .ok b := by
  cases x with
  | ok a => exact ⟨a, rfl, h⟩
  | error e => cases h

/-- The results of check 4 and the extraction (R89). -/
theorem countAndExtract_cases {s : State} {r : CycleResult} (h : countAndExtract s = .ok r) :
    r = .err .tooManyDetections ∨ ∃ snap, r = .ok snap := by
  obtain ⟨n, -, h⟩ := except_bind_eq_ok h
  split at h
  · cases h; exact .inl rfl
  · obtain ⟨snap, -, h⟩ := except_bind_eq_ok h
    cases h; exact .inr ⟨snap, rfl⟩

/-- The results DECODE can answer, in any state and at any length: one for each check of R85, and a reading. -/
theorem decodeFrame_cases {s : State} {len : Nat} {r : CycleResult} (h : decodeFrame s len = .ok r) :
    r = .err .badResponse ∨ r = .err .badChecksum ∨ r = .err .tooManyDetections ∨ ∃ snap, r = .ok snap := by
  unfold decodeFrame at h
  split at h
  · cases h; exact .inl rfl
  · obtain ⟨addressed, -, h⟩ := except_bind_eq_ok h
    split at h
    · obtain ⟨verified, -, h⟩ := except_bind_eq_ok h
      split at h
      · exact .inr (.inr (countAndExtract_cases h))
      · cases h; exact .inr (.inl rfl)
    · cases h; exact .inl rfl

/-- No check of DECODE answers `OVERFLOW` (R111). -/
theorem decodeFrame_ne_overflow (s : State) (len : Nat) : decodeFrame s len ≠ .ok (.err .overflow) := by
  intro h
  obtain h | h | h | ⟨snap, h⟩ := decodeFrame_cases h <;> cases h

/-! ### The events of an RXBYTE -/

/-- The RXBYTE that fills the frame emits the cycle's outcome and then the next request (R78, R79). -/
theorem fill_events (s : State) (b : Byte) (r : CycleResult) :
    (cycleEnd (writeDecoded (stored s b) r) r).events = s.events ++ [.cycle r, .reqNext] := by
  rw [cycleEnd_events, writeDecoded_events, stored_events]

/-- Settles O55: the append alone emits nothing, the fill emits a result of DECODE, and the guard emits `OVERFLOW`. -/
theorem overflowExcludesTheDecodeErrors : Obligations.OverflowExcludesTheDecodeErrors := by
  refine ⟨decodeFrame_ne_overflow, fun s t b h => ?_⟩
  cases exec_completesAs h with
  | store b room => exact iff_of_false (by simp) (by omega)
  | fill b r last decoded =>
    have hr : r ≠ .err .overflow := fun hr => decodeFrame_ne_overflow _ _ (hr ▸ decoded)
    exact iff_of_false (by simpa using hr) (by omega)
  | overflow b full => exact iff_of_true (cycleEnd_events s _) full

/-! ### The events of each step -/

/-- The three ways of RXBYTE, one for each range of `COUNT`. -/
theorem rxbyte_events {s t : State} {b : Byte} (h : exec (.rxbyte b) s = .next t) :
    (s.count.toNat < 24 → t.events = s.events) ∧
      (s.count.toNat = 24 → ∃ r, t.events = s.events ++ [.cycle r, .reqNext]) ∧
      (25 ≤ s.count.toNat → t.events = s.events ++ [.cycle (.err .overflow), .reqNext]) := by
  cases exec_completesAs h with
  | store b room => exact ⟨fun _ => stored_events s b, fun hc => absurd hc (by omega), fun hc => absurd hc (by omega)⟩
  | fill b r last => exact ⟨fun hc => absurd hc (by omega), fun _ => ⟨r, fill_events s b r⟩, fun hc => absurd hc (by omega)⟩
  | overflow b full => exact ⟨fun hc => absurd hc (by omega), fun hc => absurd hc (by omega), fun _ => cycleEnd_events s _⟩

/-- A step that takes no command keeps the events already given (R121, R124). -/
theorem step_without_command_events {s t : State} (hi : s.inbox = [] ∨ ∃ rest, s.inbox = .rst :: rest)
    (h : step s = .next t) : t.events = s.events := by
  obtain hi | ⟨rest, hi⟩ := hi
  · rw [step_idle hi] at h
    cases h; rfl
  · rw [step_rst hi] at h
    cases h; rfl

/-- Settles O54: RXBYTE by its three ways, SENDREQ by its one event, and nothing emitted by the rest. -/
theorem eventsOfEachStepInOrder : Obligations.EventsOfEachStepInOrder := by
  refine ⟨fun _ _ _ => rxbyte_events, fun s t h => ?_, fun s t i hi h => ?_, fun _ _ => step_without_command_events⟩
  · cases h
    exact ⟨requestFrame s.cfg, rfl⟩
  · obtain ⟨-, -, -, hevents⟩ := onlyTheTestPortTouchesItsState s t i h
    exact hevents hi

end Sys2Proof.Machine
end

section
/-! PROOFS. The family of 70_reset_and_hazards.md: the reset state and its invariant (O10, O46), RST (O9), and a fill whose first
byte nothing has written (O32). -/

namespace Sys2Proof.Machine

open Sys2Proof

/-! ### The reset state and RST -/

/-- No byte of FRAME holds a value after reset (R123). -/
theorem readFrame_resetWith (cfg : Config) {a : Nat} (ha : a < cap) :
    readFrame (State.resetWith cfg) a = .error (.unwrittenFrameByte a) :=
  readFrame_unwritten ha (Memory.read?_nil a)

/-- Settles O10: the reset state, element by element. -/
theorem resetStateHoldsTheListedValues : Obligations.ResetStateHoldsTheListedValues := fun cfg =>
  ⟨fun _ ha => readFrame_resetWith cfg ha, rfl, rfl, rfl, rfl, rfl, rfl, rfl, rfl, rfl⟩

/-- The reset state is one RST leaves (R122, R123). -/
theorem rst_resetWith (cfg : Config) : rst (State.resetWith cfg) = State.resetWith cfg := rfl

/-- Settles O46: RST meets the invariant from every state, and the reset state is one it leaves. -/
theorem resetMeetsTheInvariant : Obligations.ResetMeetsTheInvariant :=
  have inv : ∀ cfg : Config, (State.resetWith cfg).Inv := fun cfg => rst_resetWith cfg ▸ rst_inv (State.resetWith cfg)
  ⟨inv, inv Config.built⟩

/-- Settles O9: the step takes RST from the inbox, and what it leaves is read element by element. -/
theorem resetInputSetsEveryElement : Obligations.ResetInputSetsEveryElement := fun _ _ hi =>
  ⟨_, step_rst hi, Memory.read?_nil, rfl, rfl, rfl, rfl, rfl, rfl, rfl, rfl, rfl, rfl, rfl⟩

/-! ### A fill whose first byte is UNWRITTEN -/

/-- Check 2 reads `FRAME[0]` before anything else (log entry 10), so DECODE stops there when nothing has written it. -/
theorem decodeFrame_unwritten_first {s : State} (h : s.frame.read? 0 = none) :
    decodeFrame s 25 = .error (.unwrittenFrameByte 0) := by
  have hread : readFrame s 0 = .error (.unwrittenFrameByte 0) := readFrame_unwritten (by decide) h
  have haddr : addressed s = .error (.unwrittenFrameByte 0) := by rw [addressed, hread, except_error_bind]
  rw [decodeFrame, if_neg (not_not.mpr rfl), haddr, except_error_bind]

/-- Settles O32: the append writes `FRAME[24]` and leaves `FRAME[0]` as it was, and DECODE faults on it. -/
theorem decodingAnUnwrittenByteFaults : Obligations.DecodingAnUnwrittenByteFaults := by
  intro s b hc hfirst
  have hcount : s.count.toNat = 24 := congrArg BitVec.toNat hc
  have hstored : (stored s b).frame.read? 0 = none := by rw [stored_read?_other s b (by omega), hfirst]
  rw [exec_rxbyte, execRxbyte_fill b hcount, decodeFrame_unwritten_first hstored]

end Sys2Proof.Machine
end
